-- ==== Sys2Proof/Config.lean ====
section
/-! DEFINITION. Parameters of the hardware: `00_scope.md` rule R9, Table R9.

The parameters that the host chooses per program or per launch (`N`, `IPSEL`, `INIT`,
`STEP_BUDGET`) are no constants: they are arguments of `construct`, `launch` and the run loops.
The machine leaves no value free (`93_implementation_defined.md` part 1), so no opaque constant
stands here. -/

namespace Sys2Proof.Config

/-- Number of general registers (`00_scope.md` Table R9, `10_state.md` R20). -/
abbrev nreg : Nat := 6

/-- Number of opcodes (`00_scope.md` Table R9, `30_encoding.md` R61). -/
abbrev nops : Nat := 16

/-- Width in bits of a register, an immediate and a computed value (`00_scope.md` Table R9).
DESIGN CHOICE of the spec, D1 (log 5); unsafe only for runs that leave the narrower range. -/
abbrev xlen : Nat := 64

/-- Width in bits of the instruction word, `2*XLEN + 8` (`00_scope.md` Table R9,
`30_encoding.md` R63). DESIGN CHOICE of the spec, D4 (log 8); safe. -/
abbrev iw : Nat := 136

/-- `MIN`, the least register value (`00_scope.md` Table R9). -/
abbrev minVal : Int := -9223372036854775808

/-- `MAX`, the greatest register value (`00_scope.md` Table R9). -/
abbrev maxVal : Int := 9223372036854775807

end Sys2Proof.Config
end

