-- ==== Sys2Proof/Word.lean ====
section
/-! DEFINITION. The types of a register value, an instruction word and a register index. -/

namespace Sys2Proof

/-- A register value: `XLEN` = 64 bits, read as a signed number by `BitVec.toInt`
(`00_scope.md` R10; two's complement is the spec's decision D3, log 7). -/
abbrev Word := BitVec 64

/-- A binary instruction word: `IW` = 136 bits (`30_encoding.md` R63). -/
abbrev InstrWord := BitVec 136

/-- A register index, 0 to 5 (`10_state.md` R20). -/
abbrev RegIdx := Fin 6

/-- The register file: six words, indexed 0 to 5 (`10_state.md` R20). -/
abbrev RegFile := Vector Word 6

end Sys2Proof
end

