-- ==== Sys2Proof/Syntax.lean ====
section
/-! DEFINITION. The instruction set, `30_encoding.md` rules R60 and R61.

Two forms of an instruction stand here. `Tuple` is the source's own form, `(opcode, a, b, c)` with
integers that may be ill-formed (R60). `Instr` is a checked instruction, one constructor per row of
`spec/opcode_table.json`: a register field is an index 0 to 5, an immediate or ignored field is a
whole 64-bit value, so an ill-formed instruction has no `Instr` (log 21). -/

namespace Sys2Proof

/-- Operand modes of `30_encoding.md` Table R61. -/
inductive Mode where
  /-- the field is a register index and the operand is that register's value -/
  | reg
  /-- the operand is the field's value itself -/
  | imm
  /-- the field is neither read nor checked (R67) -/
  | ign
  deriving DecidableEq, Repr

/-- The sixteen opcode kinds, in the order of `30_encoding.md` Table R61; the set is closed. -/
inductive Opcode where
  | addr | addi | mulr | muli
  | banr | bani | borr | bori
  | setr | seti
  | gtir | gtri | gtrr
  | eqir | eqri | eqrr
  deriving DecidableEq, Repr

/-- An instruction as the source defines it (`30_encoding.md` R60), not yet checked. -/
structure Tuple where
  op : Opcode
  a : Int
  b : Int
  c : Int
  deriving DecidableEq, Repr

/-- A tuple as the caller of the construction interface writes it, with the opcode's name
(`30_encoding.md` R73). -/
structure NamedTuple where
  name : String
  a : Int
  b : Int
  c : Int
  deriving DecidableEq, Repr

/-- A checked instruction, `30_encoding.md` Table R61. Every constructor takes the fields `a`, `b`
and the destination `c`, in that order. -/
inductive Instr where
  /-- `x[c] <- x[a] + x[b]` (`40_arithmetic.md` R100) -/
  | addr (a b c : RegIdx)
  /-- `x[c] <- x[a] + b` (`40_arithmetic.md` R101) -/
  | addi (a : RegIdx) (b : Word) (c : RegIdx)
  /-- `x[c] <- x[a] * x[b]` (`40_arithmetic.md` R102) -/
  | mulr (a b c : RegIdx)
  /-- `x[c] <- x[a] * b` (`40_arithmetic.md` R103) -/
  | muli (a : RegIdx) (b : Word) (c : RegIdx)
  /-- `x[c] <- x[a] & x[b]` (`41_bitwise.md` R110) -/
  | banr (a b c : RegIdx)
  /-- `x[c] <- x[a] & b` (`41_bitwise.md` R111) -/
  | bani (a : RegIdx) (b : Word) (c : RegIdx)
  /-- `x[c] <- x[a] | x[b]` (`41_bitwise.md` R112) -/
  | borr (a b c : RegIdx)
  /-- `x[c] <- x[a] | b` (`41_bitwise.md` R113) -/
  | bori (a : RegIdx) (b : Word) (c : RegIdx)
  /-- `x[c] <- x[a]`, `b` ignored (`42_assignment.md` R120) -/
  | setr (a : RegIdx) (b : Word) (c : RegIdx)
  /-- `x[c] <- a`, `b` ignored (`42_assignment.md` R121) -/
  | seti (a b : Word) (c : RegIdx)
  /-- `x[c] <- 1 if a > x[b] else 0` (`43_comparison.md` R130) -/
  | gtir (a : Word) (b c : RegIdx)
  /-- `x[c] <- 1 if x[a] > b else 0` (`43_comparison.md` R131) -/
  | gtri (a : RegIdx) (b : Word) (c : RegIdx)
  /-- `x[c] <- 1 if x[a] > x[b] else 0` (`43_comparison.md` R132) -/
  | gtrr (a b c : RegIdx)
  /-- `x[c] <- 1 if a == x[b] else 0` (`43_comparison.md` R133) -/
  | eqir (a : Word) (b c : RegIdx)
  /-- `x[c] <- 1 if x[a] == b else 0` (`43_comparison.md` R134) -/
  | eqri (a : RegIdx) (b : Word) (c : RegIdx)
  /-- `x[c] <- 1 if x[a] == x[b] else 0` (`43_comparison.md` R135) -/
  | eqrr (a b c : RegIdx)
  deriving DecidableEq, Repr

/-- Why a program, an instruction or a word is refused before execution: the reasons of
`30_encoding.md` R66 and R73. Safe: nothing runs. -/
inductive Reject where
  /-- construction from names: the name is none of the sixteen mnemonics (R73) -/
  | unknownOpcodeName
  /-- `c` is outside 0 to 5 (R66 (2), R73) -/
  | destinationOutOfRange
  /-- a register-mode operand field is outside 0 to 5 (R66 (3), R73) -/
  | operandOutOfRegisterRange
  /-- word level: bit 7 is 1 (R66 (1), R73) -/
  | reservedBitSet
  /-- tuple level: `a` or `b` is outside `[MIN, MAX]` (R62 (5), R73) -/
  | operandOutOfValueRange
  /-- `IPSEL` is outside 0 to 5 (R73) -/
  | ipselOutOfRange
  /-- `N > MAX` (R73) -/
  | programTooLong
  deriving DecidableEq, Repr

end Sys2Proof
end

