-- ==== Sys2Proof/Machine/Modes.lean ====
section
/-! DEFINITION. The opcode-indexed table of `30_encoding.md` Table R61: mnemonic, number and operand
modes of each opcode. -/

namespace Sys2Proof.Opcode

/-- The sixteen opcodes in table order: entry `k` is the opcode of number `k`
(`30_encoding.md` R64). DESIGN CHOICE of the spec, D5 (log 8); safe. -/
def table : Vector Opcode 16 :=
  #v[.addr, .addi, .mulr, .muli, .banr, .bani, .borr, .bori,
     .setr, .seti, .gtir, .gtri, .gtrr, .eqir, .eqri, .eqrr]

/-- The opcode of a number; no value of the four-bit field is illegal (`30_encoding.md` R64). -/
def ofNumber (n : BitVec 4) : Opcode := table[n.toNat]'n.isLt

/-- The column "number" of Table R61 (`30_encoding.md` R64). -/
def number : Opcode → BitVec 4
  | .addr => 0 | .addi => 1 | .mulr => 2 | .muli => 3
  | .banr => 4 | .bani => 5 | .borr => 6 | .bori => 7
  | .setr => 8 | .seti => 9 | .gtir => 10 | .gtri => 11
  | .gtrr => 12 | .eqir => 13 | .eqri => 14 | .eqrr => 15

/-- The column "mode of `a`" of Table R61. -/
def modeA : Opcode → Mode
  | .addr | .addi | .mulr | .muli | .banr | .bani | .borr | .bori | .setr => .reg
  | .seti | .gtir | .eqir => .imm
  | .gtri | .gtrr | .eqri | .eqrr => .reg

/-- The column "mode of `b`" of Table R61. -/
def modeB : Opcode → Mode
  | .addr | .mulr | .banr | .borr => .reg
  | .addi | .muli | .bani | .bori => .imm
  | .setr | .seti => .ign
  | .gtir | .gtrr | .eqir | .eqrr => .reg
  | .gtri | .eqri => .imm

/-- The column "mnemonic" of Table R61. -/
def mnemonic : Opcode → String
  | .addr => "addr" | .addi => "addi" | .mulr => "mulr" | .muli => "muli"
  | .banr => "banr" | .bani => "bani" | .borr => "borr" | .bori => "bori"
  | .setr => "setr" | .seti => "seti" | .gtir => "gtir" | .gtri => "gtri"
  | .gtrr => "gtrr" | .eqir => "eqir" | .eqri => "eqri" | .eqrr => "eqrr"

/-- The opcode with a given name, if it is one of the sixteen (`30_encoding.md` R61, R73). -/
def ofName (name : String) : Option Opcode :=
  table.toList.find? fun op => op.mnemonic == name

end Sys2Proof.Opcode
end

