-- ==== Sys2Proof/WellFormed.lean ====
section
/-! DEFINITION. Well-formedness of a tuple and of a program, `30_encoding.md` rule R62. -/

namespace Sys2Proof

/-- `0 <= k <= 5`. -/
def isRegIndex (k : Int) : Bool := decide (0 ≤ k) && decide (k ≤ 5)

/-- `k` is in `[MIN, MAX]`. -/
def isValue (k : Int) : Bool := decide (Config.minVal ≤ k) && decide (k ≤ Config.maxVal)

/-- A field of the given mode passes the register-index check (`30_encoding.md` R62 (3), (4)):
only a register-mode field is constrained. -/
def Mode.fieldOk (m : Mode) (k : Int) : Bool :=
  match m with
  | .reg => isRegIndex k
  | .imm => true
  | .ign => true

/-- `wf(op, a, b, c)` of `30_encoding.md` R62. Check (1), that `op` is one of the sixteen kinds,
holds by the type of `op`. -/
def Tuple.wf (t : Tuple) : Bool :=
  isRegIndex t.c && t.op.modeA.fieldOk t.a && t.op.modeB.fieldOk t.b && isValue t.a && isValue t.b

/-- A program is well-formed: every instruction is, `IPSEL` is 0 to 5 and `N <= MAX`
(`30_encoding.md` R62). -/
def wfProgram (code : List Tuple) (ipsel : Int) : Bool :=
  code.all Tuple.wf && isRegIndex ipsel && decide ((code.length : Int) ≤ Config.maxVal)

end Sys2Proof
end

