-- ==== Sys2Proof/Decode.lean ====
section
/-! DEFINITION. Value helpers, the check and assembly of a tuple, the decoder and the encoder:
`30_encoding.md` rules R62 to R67 and R72. -/

namespace Sys2Proof

/-- `wrap(n)`: the value congruent to `n` modulo `2^XLEN` (`00_scope.md` R10). DESIGN CHOICE of the
spec where a result overflows, D2 (log 6); unsafe against software that never overflows. -/
def wrap (n : Int) : Word := BitVec.ofInt 64 n

/-- The register index a checked field names. -/
def regOf (k : Int) : RegIdx := Fin.ofNat 6 k.toNat

/-- The first reason to refuse a tuple, or none if it is well-formed. The order is that of
`30_encoding.md` R66 (destination, then operands), with the value range last (log 14). -/
def Tuple.reject (t : Tuple) : Option Reject :=
  if !isRegIndex t.c then some .destinationOutOfRange
  else if !(t.op.modeA.fieldOk t.a && t.op.modeB.fieldOk t.b) then some .operandOutOfRegisterRange
  else if !(isValue t.a && isValue t.b) then some .operandOutOfValueRange
  else none

/-- The checked instruction of a well-formed tuple: the modes of Table R61 decide which fields are
register indices (`30_encoding.md` R65). Meaningful only after `Tuple.reject` answers none. -/
def Tuple.assemble (t : Tuple) : Instr :=
  match t.op with
  | .addr => .addr (regOf t.a) (regOf t.b) (regOf t.c)
  | .addi => .addi (regOf t.a) (wrap t.b) (regOf t.c)
  | .mulr => .mulr (regOf t.a) (regOf t.b) (regOf t.c)
  | .muli => .muli (regOf t.a) (wrap t.b) (regOf t.c)
  | .banr => .banr (regOf t.a) (regOf t.b) (regOf t.c)
  | .bani => .bani (regOf t.a) (wrap t.b) (regOf t.c)
  | .borr => .borr (regOf t.a) (regOf t.b) (regOf t.c)
  | .bori => .bori (regOf t.a) (wrap t.b) (regOf t.c)
  | .setr => .setr (regOf t.a) (wrap t.b) (regOf t.c)
  | .seti => .seti (wrap t.a) (wrap t.b) (regOf t.c)
  | .gtir => .gtir (wrap t.a) (regOf t.b) (regOf t.c)
  | .gtri => .gtri (regOf t.a) (wrap t.b) (regOf t.c)
  | .gtrr => .gtrr (regOf t.a) (regOf t.b) (regOf t.c)
  | .eqir => .eqir (wrap t.a) (regOf t.b) (regOf t.c)
  | .eqri => .eqri (regOf t.a) (wrap t.b) (regOf t.c)
  | .eqrr => .eqrr (regOf t.a) (regOf t.b) (regOf t.c)

/-- Check a tuple and assemble it (`30_encoding.md` R62, R73). -/
def Tuple.toInstr (t : Tuple) : Except Reject Instr :=
  match t.reject with
  | some r => .error r
  | none => .ok t.assemble

/-- The opcode of an instruction. -/
def Instr.opcode : Instr → Opcode
  | .addr _ _ _ => .addr | .addi _ _ _ => .addi | .mulr _ _ _ => .mulr | .muli _ _ _ => .muli
  | .banr _ _ _ => .banr | .bani _ _ _ => .bani | .borr _ _ _ => .borr | .bori _ _ _ => .bori
  | .setr _ _ _ => .setr | .seti _ _ _ => .seti
  | .gtir _ _ _ => .gtir | .gtri _ _ _ => .gtri | .gtrr _ _ _ => .gtrr
  | .eqir _ _ _ => .eqir | .eqri _ _ _ => .eqri | .eqrr _ _ _ => .eqrr

/-- The destination field `c`: always a register index (`30_encoding.md` R60). -/
def Instr.dest : Instr → RegIdx
  | .addr _ _ c | .addi _ _ c | .mulr _ _ c | .muli _ _ c => c
  | .banr _ _ c | .bani _ _ c | .borr _ _ c | .bori _ _ c => c
  | .setr _ _ c | .seti _ _ c => c
  | .gtir _ _ c | .gtri _ _ c | .gtrr _ _ c => c
  | .eqir _ _ c | .eqri _ _ c | .eqrr _ _ c => c

/-- A register index as a full-width operand field (`30_encoding.md` R63). -/
def regField (k : RegIdx) : Word := BitVec.ofNat 64 k.val

/-- The operand field `a` at full width (`30_encoding.md` R63). -/
def Instr.fieldA : Instr → Word
  | .addr a _ _ | .addi a _ _ | .mulr a _ _ | .muli a _ _ => regField a
  | .banr a _ _ | .bani a _ _ | .borr a _ _ | .bori a _ _ => regField a
  | .setr a _ _ | .gtri a _ _ | .gtrr a _ _ | .eqri a _ _ | .eqrr a _ _ => regField a
  | .seti a _ _ | .gtir a _ _ | .eqir a _ _ => a

/-- The operand field `b` at full width, the ignored one of `setr` and `seti` carried as written
(`30_encoding.md` R63, R67). -/
def Instr.fieldB : Instr → Word
  | .addr _ b _ | .mulr _ b _ | .banr _ b _ | .borr _ b _ => regField b
  | .gtir _ b _ | .gtrr _ b _ | .eqir _ b _ | .eqrr _ b _ => regField b
  | .addi _ b _ | .muli _ b _ | .bani _ b _ | .bori _ b _ => b
  | .setr _ b _ | .seti _ b _ | .gtri _ b _ | .eqri _ b _ => b

/-- The source's tuple of a checked instruction (`30_encoding.md` R60). -/
def Instr.toTuple (i : Instr) : Tuple :=
  ⟨i.opcode, i.fieldA.toInt, i.fieldB.toInt, i.dest.val⟩

/-- Field `op`, bits `[3:0]` (`30_encoding.md` Table R63). -/
def InstrWord.op (w : InstrWord) : BitVec 4 := w.extractLsb' 0 4

/-- Field `c`, bits `[6:4]` (`30_encoding.md` Table R63). -/
def InstrWord.c (w : InstrWord) : BitVec 3 := w.extractLsb' 4 3

/-- Field `rsv`, bit 7 (`30_encoding.md` Table R63). -/
def InstrWord.rsv (w : InstrWord) : Bool := w.getLsbD 7

/-- Field `a`, bits `[71:8]` (`30_encoding.md` Table R63). -/
def InstrWord.a (w : InstrWord) : Word := w.extractLsb' 8 64

/-- Field `b`, bits `[135:72]` (`30_encoding.md` Table R63). -/
def InstrWord.b (w : InstrWord) : Word := w.extractLsb' 72 64

/-- The four fields of a word as a tuple, operands read as two's complement and `c` unsigned, before
any check (`30_encoding.md` R72). -/
def InstrWord.rawTuple (w : InstrWord) : Tuple :=
  ⟨Opcode.ofNumber (InstrWord.op w), (InstrWord.a w).toInt, (InstrWord.b w).toInt,
    (InstrWord.c w).toNat⟩

/-- The decoder, `30_encoding.md` R72: total, and refusing by the name of the first reason of R66. -/
def decode (w : InstrWord) : Except Reject Instr :=
  if InstrWord.rsv w then .error .reservedBitSet else (InstrWord.rawTuple w).toInstr

/-- The word with the given fields, `rsv` = 0 (`30_encoding.md` R72). -/
def packWord (op : BitVec 4) (c : BitVec 3) (a b : Word) : InstrWord := b ++ a ++ 0#1 ++ c ++ op

/-- The encoder, `30_encoding.md` R72: `{u(b), u(a), 0, c[2:0], number(op)[3:0]}`. -/
def encode (i : Instr) : InstrWord :=
  packWord i.opcode.number (BitVec.ofNat 3 i.dest.val) i.fieldA i.fieldB

/-- The instruction word whose low `nbits` bits are those of `w` and whose higher bits are 0. The
machine has no bytes and stores a word whole (`20_memory.md` R42), so no byte order enters. -/
def tableWord (nbits w : Nat) : InstrWord := BitVec.ofNat 136 (w % 2 ^ nbits)

/-- What the decoder reads from an instruction whose bits are `w`, numbered as
`spec/opcode_table.json` numbers them; none where it refuses, or where `w` has a bit above the 136
of a word. -/
def decodeTableWord (nbits w : Nat) : Option Instr :=
  if w % 2 ^ nbits < 2 ^ 136 then (decode (tableWord nbits w)).toOption else none

end Sys2Proof
end

