-- ==== Sys2Proof/Machine/State.lean ====
section
/-! DEFINITION. The state of the core and the reasons a step can stop. `10_state.md` R28, R31 and
R32 give the whole record. -/

namespace Sys2Proof.Machine

/-- The instruction store: `N` instructions, indexed 0 to `N - 1` (`20_memory.md` R40). Every entry is a
well-formed instruction (`10_state.md` R29), so no store holds a malformed one (`60_exceptions.md`
R202). There are no bytes and no data memory (`20_memory.md` R42, R52), and `N` is the length, so
an index outside the list holds nothing (log 1). -/
abbrev Memory := List Instr

/-- The state of the core, `10_state.md` R31, with the program store (R29) and the host's choice of a
step budget (`60_exceptions.md` R210). There is no program counter beside `x` (R24). -/
structure State where
  /-- the six general registers (`10_state.md` R20) -/
  x : RegFile
  /-- `IPSEL`, the index of the register bound to the instruction pointer (`10_state.md` R23) -/
  ipsel : RegIdx
  /-- the sticky halt bit (`10_state.md` R26; log 9) -/
  halted : Bool
  /-- the program store, read-only during execution (`10_state.md` R29) -/
  program : Memory
  /-- `STEP_BUDGET`, chosen by the host before launch (`60_exceptions.md` R210) -/
  stepBudget : Option Nat
  /-- `STEPCNT`, executing steps since launch, meaningful when a budget is configured
  (`10_state.md` R28; log 11) -/
  stepCnt : Nat
  deriving DecidableEq, Repr

/-- Faults: none. The core raises no exception and has no fault state (`60_exceptions.md` R200;
log 20). Nothing raises a fault, so no run of the model ends in one: safe. -/
inductive Fault where
  deriving DecidableEq, Repr

/-- Why a step has no meaning. A malformed instruction or word is no such reason: it is refused when
the program is constructed, and the step has no arm for it (`60_exceptions.md` R202; log 10). -/
inductive Refusal where
  /-- Raised by the dispatch for an instruction whose meaning is not written. No arm raises it. Safe:
  nothing can be proved of a refused step. -/
  | notModelled (mnemonic : String)
  deriving DecidableEq, Repr

/-- The answer of one instruction or one step. -/
abbrev Result := Host.Outcome State Fault Refusal

/-- The machine right after reset: the launch state (`10_state.md` Table R32) of the empty program
with `IPSEL` = 0, six zero registers and no step budget. `halted` = 0 and `STEPCNT` = 0 are the
spec's; the program, `IPSEL` and the register values are the host's to supply, so the values
here are DESIGN CHOICES (logs 2 and 3); unsafe for a claim that rests on them. -/
def State.reset : State where
  x := Vector.replicate 6 0
  ipsel := 0
  halted := false
  program := []
  stepBudget := none
  stepCnt := 0

end Sys2Proof.Machine
end

