-- ==== Sys2Proof/Machine/Ops.lean ====
section
/-! DEFINITION. The named operations of the machine: the register file, the instruction pointer,
the fetch, the arithmetic and bitwise functions, the halt and the end of an executing step.

The core takes no exception and has no return from one (`60_exceptions.md` R200, R206, R207), so
no exception entry stands here. The halt is the one event of the core (R201). -/

namespace Sys2Proof.Machine

/-- `x[k]`: a read has no side effect (`00_scope.md` Table R11). -/
def State.readReg (s : State) (k : RegIdx) : Word := s.x[k.val]

/-- `x[k] <- v` (`00_scope.md` Table R11): no register is hardwired (`10_state.md` R20). -/
def State.writeReg (s : State) (k : RegIdx) (v : Word) : State := { s with x := s.x.set k.val v }

/-- `pc`: an alias for `x[IPSEL]`, no state of its own (`10_state.md` R24). -/
def State.pc (s : State) : Word := s.readReg s.ipsel

/-- `IFetch(addr)`: the instruction at an address, whole, if the address is in `[0, N)`
(`20_memory.md` R40, R41, R45). -/
def Memory.read (m : Memory) (addr : Int) : Option Instr :=
  if 0 ≤ addr then m[addr.toNat]? else none

/-- `imem[addr]`: the store at the word level (`20_memory.md` R41, `30_encoding.md` R72). -/
def Memory.readWord (m : Memory) (addr : Int) : Option InstrWord := (m.read addr).map encode

/-- The store is one that construction produces: `N <= MAX` (`30_encoding.md` R62, R73). That every
entry is well-formed holds by its type, and a list has one form, so nothing else is to check. -/
def Memory.wf (m : Memory) : Bool := decide ((m.length : Int) ≤ Config.maxVal)

/-- The range test of the step, on the signed value: `0 <= x[IPSEL] < N` (`44_executor.md` R150). -/
def State.inRange (s : State) : Bool :=
  decide (0 ≤ s.pc.toInt) && decide (s.pc.toInt < s.program.length)

/-- `at_halt(state)` (`10_state.md` R26). -/
def State.atHalt (s : State) : Bool := !s.inRange

/-- `IFetch(x[IPSEL])` (`20_memory.md` R41): none exactly when the address is out of range. -/
def State.fetch (s : State) : Option Instr := s.program.read s.pc.toInt

/-- The effect of a halt step: `halted <- 1` and nothing else (`44_executor.md` R152). -/
def State.halt (s : State) : State := { s with halted := true }

/-- `wrap(p + q)` (`40_arithmetic.md` R104). -/
def addWrap (p q : Word) : Word := wrap (p.toInt + q.toInt)

/-- `wrap(p * q)` (`40_arithmetic.md` R105). -/
def mulWrap (p q : Word) : Word := wrap (p.toInt * q.toInt)

/-- `p & q`, each of the 64 bit positions independently (`41_bitwise.md` R114; log 7). -/
def bitAnd (p q : Word) : Word := p &&& q

/-- `p | q`, each of the 64 bit positions independently (`41_bitwise.md` R114; log 7). -/
def bitOr (p q : Word) : Word := p ||| q

/-- The instruction's own write: it completes with the result in `x[c]` and nothing else changed
(`10_state.md` R21; the increment belongs to the step, log 22). -/
def State.writeResult (s : State) (c : RegIdx) (r : Word) : Result := .next (s.writeReg c r)

/-- `x[IPSEL] <- wrap(x[IPSEL] + 1)`, reading the register after the instruction's write
(`44_executor.md` R150 step 4, R151, R156). -/
def State.increment (s : State) : State := s.writeReg s.ipsel (addWrap s.pc 1)

/-- `if STEP_BUDGET is not none: STEPCNT <- STEPCNT + 1` (`44_executor.md` R150). -/
def State.count (s : State) : State :=
  { s with stepCnt := if s.stepBudget.isSome then s.stepCnt + 1 else s.stepCnt }

/-- What every executing step does after the instruction's write (`44_executor.md` R150). -/
def State.advance (s : State) : State := s.increment.count

/-- The budget test of the run loops (`60_exceptions.md` R210): the count has reached the budget and
an instruction would otherwise execute. -/
def State.budgetSpent (s : State) : Bool :=
  match s.stepBudget with
  | none => false
  | some n => decide (n ≤ s.stepCnt) && !s.halted && s.inRange

/-- The state in which the next step fetches the given instruction: at the fetch address if that
address is in range; otherwise as the one-instruction program, with the instruction pointer at it
(log 4). -/
def State.placeAtFetch (s : State) (i : Instr) : State :=
  if s.inRange then { s with program := s.program.set s.pc.toInt.toNat i, halted := false }
  else { s.writeReg s.ipsel 0 with program := [i], halted := false }

/-- A word loaded at the fetch address: decoded as construction does, so a malformed word is refused
and nothing is loaded (`30_encoding.md` R66, R73; log 4). -/
def State.loadAtFetch (s : State) (w : InstrWord) : State :=
  match decode w with
  | .ok i => s.placeAtFetch i
  | .error _ => s

end Sys2Proof.Machine
end

