-- ==== Sys2Proof/Machine/Operands.lean ====
section
/-! DEFINITION. Operand fetch, `30_encoding.md` rule R65. -/

namespace Sys2Proof.Machine

/-- A source operand with the mode its opcode gives it (`30_encoding.md` Table R61). An ignored field
is no operand: `val(ign, k)` is never evaluated (R65, R67). -/
inductive Operand where
  /-- mode `reg`: the field is a register index -/
  | reg (k : RegIdx)
  /-- mode `imm`: the field is the value -/
  | imm (v : Word)
  deriving DecidableEq, Repr

/-- `val(mode, k)`: the register's value, or the immediate as it is, neither extended nor scaled
(`30_encoding.md` R65). A register operand that names `IPSEL` reads the instruction's own
address (`44_executor.md` R154). -/
def State.val (s : State) : Operand → Word
  | .reg k => s.readReg k
  | .imm v => v

end Sys2Proof.Machine
end

