-- ==== Sys2Proof/Machine/Arithmetic.lean ====
section
/-! DEFINITION. The arithmetic instructions, `40_arithmetic.md`. A meaning is the instruction's own
write of `x[c]`, operands read before it; the step adds the increment (`44_executor.md` R150). -/

namespace Sys2Proof.Machine

/-- `addr a b c`, R100. -/
def execAddr (a b c : RegIdx) (s : State) : Result :=
  s.writeResult c (addWrap (s.val (.reg a)) (s.val (.reg b)))

/-- `addi a b c`, R101. -/
def execAddi (a : RegIdx) (b : Word) (c : RegIdx) (s : State) : Result :=
  s.writeResult c (addWrap (s.val (.reg a)) (s.val (.imm b)))

/-- `mulr a b c`, R102. -/
def execMulr (a b c : RegIdx) (s : State) : Result :=
  s.writeResult c (mulWrap (s.val (.reg a)) (s.val (.reg b)))

/-- `muli a b c`, R103. -/
def execMuli (a : RegIdx) (b : Word) (c : RegIdx) (s : State) : Result :=
  s.writeResult c (mulWrap (s.val (.reg a)) (s.val (.imm b)))

end Sys2Proof.Machine
end

