-- ==== Sys2Proof/Machine/Assignment.lean ====
section
/-! DEFINITION. The assignment instructions, `42_assignment.md`. The field `b` is carried and never
read (`30_encoding.md` R67; log 15). -/

namespace Sys2Proof.Machine

/-- `setr a b c`, R120; `b` is ignored. -/
def execSetr (a : RegIdx) (_b : Word) (c : RegIdx) (s : State) : Result :=
  s.writeResult c (s.val (.reg a))

/-- `seti a b c`, R121; `b` is ignored. -/
def execSeti (a _b : Word) (c : RegIdx) (s : State) : Result :=
  s.writeResult c (s.val (.imm a))

end Sys2Proof.Machine
end

