-- ==== Sys2Proof/Machine/Bitwise.lean ====
section
/-! DEFINITION. The bitwise instructions, `41_bitwise.md`. A meaning is the instruction's own write of
`x[c]`, operands read before it; the step adds the increment (`44_executor.md` R150). -/

namespace Sys2Proof.Machine

/-- `banr a b c`, R110. -/
def execBanr (a b c : RegIdx) (s : State) : Result :=
  s.writeResult c (bitAnd (s.val (.reg a)) (s.val (.reg b)))

/-- `bani a b c`, R111. -/
def execBani (a : RegIdx) (b : Word) (c : RegIdx) (s : State) : Result :=
  s.writeResult c (bitAnd (s.val (.reg a)) (s.val (.imm b)))

/-- `borr a b c`, R112. -/
def execBorr (a b c : RegIdx) (s : State) : Result :=
  s.writeResult c (bitOr (s.val (.reg a)) (s.val (.reg b)))

/-- `bori a b c`, R113. -/
def execBori (a : RegIdx) (b : Word) (c : RegIdx) (s : State) : Result :=
  s.writeResult c (bitOr (s.val (.reg a)) (s.val (.imm b)))

end Sys2Proof.Machine
end

