-- ==== Sys2Proof/Machine/Flags.lean ====
section
/-! DEFINITION. Comparison outcomes. The core has no status flags and no condition codes
(`10_state.md` R27): a comparison's outcome is an ordinary value, 0 or 1, for `x[c]`. -/

namespace Sys2Proof.Machine

/-- The value of an outcome: exactly 0 or exactly 1 (`43_comparison.md` R137). -/
def outcome (b : Bool) : Word := if b then 1 else 0

/-- `1 if p > q else 0`, the order of the signed values (`43_comparison.md` R136). -/
def gtOutcome (p q : Word) : Word := outcome (decide (p.toInt > q.toInt))

/-- `1 if p == q else 0`, all bits compared (`43_comparison.md` R136). -/
def eqOutcome (p q : Word) : Word := outcome (decide (p = q))

end Sys2Proof.Machine
end

