-- ==== Sys2Proof/Machine/Comparison.lean ====
section
/-! DEFINITION. The comparison instructions, `43_comparison.md`. The outcome goes to `x[c]`, never to
a flag (`10_state.md` R27). -/

namespace Sys2Proof.Machine

/-- `gtir a b c`, R130. -/
def execGtir (a : Word) (b c : RegIdx) (s : State) : Result :=
  s.writeResult c (gtOutcome (s.val (.imm a)) (s.val (.reg b)))

/-- `gtri a b c`, R131. -/
def execGtri (a : RegIdx) (b : Word) (c : RegIdx) (s : State) : Result :=
  s.writeResult c (gtOutcome (s.val (.reg a)) (s.val (.imm b)))

/-- `gtrr a b c`, R132. -/
def execGtrr (a b c : RegIdx) (s : State) : Result :=
  s.writeResult c (gtOutcome (s.val (.reg a)) (s.val (.reg b)))

/-- `eqir a b c`, R133. -/
def execEqir (a : Word) (b c : RegIdx) (s : State) : Result :=
  s.writeResult c (eqOutcome (s.val (.imm a)) (s.val (.reg b)))

/-- `eqri a b c`, R134. -/
def execEqri (a : RegIdx) (b : Word) (c : RegIdx) (s : State) : Result :=
  s.writeResult c (eqOutcome (s.val (.reg a)) (s.val (.imm b)))

/-- `eqrr a b c`, R135. -/
def execEqrr (a b c : RegIdx) (s : State) : Result :=
  s.writeResult c (eqOutcome (s.val (.reg a)) (s.val (.reg b)))

end Sys2Proof.Machine
end

