-- ==== Sys2Proof/Machine/Step.lean ====
section
/-! DEFINITION. The step function, `44_executor.md` rule R150. -/

namespace Sys2Proof.Machine

/-- One step, Listing R150. The first case is the step in the halted state (R157), the second the
halt step (R152), the last an executing step: the instruction's own write, then, always, the
increment and the count (R151, R156). The store holds well-formed instructions only, so there is no
arm for a malformed one (`60_exceptions.md` R202; log 10). The budget is tested by the run loops,
not here (`60_exceptions.md` R210). -/
def step (s : State) : Host.Outcome State Fault Refusal :=
  if s.halted then .next s
  else
    match s.fetch with
    | none => .next s.halt
    | some i =>
      match exec i s with
      | .next t => .next t.advance
      | .fault f => .fault f
      | .refused r => .refused r

/-- The state with the instruction of bits `w` (numbered as `spec/opcode_table.json` numbers them,
the bits from `nbits` on being 0) where `step` fetches next, so that the next step runs it. The
word is read whole, in no byte order (`20_memory.md` R42). Log 4 says what is set, and that a
malformed word is refused and leaves the state as it is. -/
def State.withFetchWord (s : State) (nbits w : Nat) : State := s.loadAtFetch (tableWord nbits w)

end Sys2Proof.Machine
end

