-- ==== Sys2Proof/Machine/RunLoops.lean ====
section
/-! DEFINITION. The run loops, the observer and the step budget: `44_executor.md` R158 and R159,
`60_exceptions.md` R205, R210, R212 and R213, `70_reset_and_hazards.md` R258. -/

namespace Sys2Proof.Machine

/-- How a run loop ends (`70_reset_and_hazards.md` R258). -/
inductive RunEnd where
  /-- a state with `halted = 1` was reached; the registers are the final register file -/
  | halted (regs : RegFile)
  /-- the host stopped stepping after an executing step -/
  | stopped (regs : RegFile)
  /-- the step budget ran out with an instruction left to execute -/
  | budgetExceeded (regs : RegFile)
  /-- the model's own bound on the number of loop turns ran out: the run goes on (log 12) -/
  | unfinished (s : State)
  deriving DecidableEq, Repr

/-- What an observer asks of the host after a step (`44_executor.md` R159). -/
inductive Request where
  | goOn
  | stop
  deriving DecidableEq, Repr

/-- `run_to_halt` (`44_executor.md` R158) with the budget test before each step (`60_exceptions.md`
R205, R210), for at most `fuel` turns. -/
def runToHalt : (fuel : Nat) → State → Host.Outcome RunEnd Fault Refusal
  | 0, s => .next (.unfinished s)
  | fuel + 1, s =>
    if s.budgetSpent then .next (.budgetExceeded s.x)
    else
      match step s with
      | .fault f => .fault f
      | .refused r => .refused r
      | .next t => if t.halted then .next (.halted t.x) else runToHalt fuel t

/-- `run_with_observer` (`44_executor.md` R159) for at most `fuel` turns. The observer is called after
each executing step with the register file as that step left it, is not called after the halt
step (log 13), keeps a state of its own and changes nothing in the core (`60_exceptions.md`
R212). A stop leaves no trace in the core (R213). -/
def runWithObserver {ω : Type} (observe : ω → RegFile → ω × Request) :
    (fuel : Nat) → ω → State → Host.Outcome (RunEnd × ω) Fault Refusal
  | 0, o, s => .next (.unfinished s, o)
  | fuel + 1, o, s =>
    if s.budgetSpent then .next (.budgetExceeded s.x, o)
    else
      match step s with
      | .fault f => .fault f
      | .refused r => .refused r
      | .next t =>
        if t.halted then .next (.halted t.x, o)
        else
          match observe o t.x with
          | (o', .stop) => .next (.stopped t.x, o')
          | (o', .goOn) => runWithObserver observe fuel o' t

end Sys2Proof.Machine
end

