-- ==== Sys2Proof/Machine/CycleDetector.lean ====
section
/-! DEFINITION. The cycle detector of `60_exceptions.md` R216: host software outside the core
(`00_scope.md` R5 (d)), written so that the host of `runWithObserver` can be modelled (log 18). It is no
part of `State`. -/

namespace Sys2Proof.Machine

/-- What the detector reports (`60_exceptions.md` R216). -/
inductive Signal where
  | goOn
  | firstSeen (v : Int)
  | terminal (lastNovel : Int)
  deriving DecidableEq, Repr

/-- The detector's state (`60_exceptions.md` R216): the values seen, newest first, the first value
produced, the last novel value, and whether it is terminal. -/
structure Detector where
  seen : List Int
  first : Option Int
  lastNovel : Option Int
  terminal : Bool
  deriving DecidableEq, Repr

/-- A detector that has observed nothing. -/
def Detector.fresh : Detector := ⟨[], none, none, false⟩

/-- `observe(value)` (`60_exceptions.md` R216, `90_conflicts.md` C9). A terminal detector accepts no
further input and repeats its report (log 18). -/
def Detector.observe (d : Detector) (v : Int) : Detector × Signal :=
  match d.lastNovel with
  | none => (⟨[v], some v, some v, false⟩, .firstSeen v)
  | some l =>
    if d.terminal then (d, .terminal l)
    else if d.seen.contains v then ({ d with terminal := true }, .terminal l)
    else ({ d with seen := v :: d.seen, lastNovel := some v }, .goOn)

/-- The observer the source's second use builds from a detector: when the register at index `ip` holds
`addr`, register `watched` is fed to the detector, and the run is stopped once it is terminal. The
indices and the address are the program's (`60_exceptions.md` R212, R216), so they are
arguments. `addr` is compared with `x[IPSEL]` after the step, the register file the port shows. -/
def detectorObserver (ip watched : RegIdx) (addr : Int) (d : Detector) (regs : RegFile) :
    Detector × Request :=
  if (regs[ip.val]).toInt = addr then
    match d.observe (regs[watched.val]).toInt with
    | (d', .terminal _) => (d', .stop)
    | (d', _) => (d', .goOn)
  else (d, .goOn)

end Sys2Proof.Machine
end

