-- ==== Sys2Proof/Machine/TupleLevel.lean ====
section
/-! DEFINITION. The machine at the tuple level, which `00_scope.md` R7 makes the normative one: signed
mathematical integers, instruction tuples and Listing R150 of `44_executor.md`, with no bits. The
machine of `Step.lean` works on 64-bit values and checked instructions; that the two agree is a
statement of this package. -/

namespace Sys2Proof.Machine

/-- The state record at the tuple level (`10_state.md` R31). -/
structure TupleState where
  x : Vector Int 6
  ipsel : RegIdx
  halted : Bool
  program : List Tuple
  stepBudget : Option Nat
  stepCnt : Nat
  deriving DecidableEq, Repr

/-- `wrap(n) = ((n + 2^(XLEN-1)) mod 2^XLEN) - 2^(XLEN-1)` (`00_scope.md` R10). -/
def wrapInt (n : Int) : Int := (n + 9223372036854775808) % 18446744073709551616 - 9223372036854775808

/-- `u(v) = v mod 2^XLEN` (`00_scope.md` R10). -/
def unsignedOf (v : Int) : Nat := (v % 18446744073709551616).toNat

/-- `alu(op, va, vb)`: the sixteen functions of `44_executor.md` R162, with `&` and `|` as
`41_bitwise.md` R114 defines them. -/
def aluInt (op : Opcode) (va vb : Int) : Int :=
  match op with
  | .addr | .addi => wrapInt (va + vb)
  | .mulr | .muli => wrapInt (va * vb)
  | .banr | .bani => wrapInt (unsignedOf va &&& unsignedOf vb : Nat)
  | .borr | .bori => wrapInt (unsignedOf va ||| unsignedOf vb : Nat)
  | .setr | .seti => va
  | .gtir | .gtri | .gtrr => if va > vb then 1 else 0
  | .eqir | .eqri | .eqrr => if va = vb then 1 else 0

/-- `val(mode, k)` (`00_scope.md` Table R11). In mode `ign` there is no value and no function uses
one; 0 stands for it, and a register field outside 0 to 5 is reduced by `regOf`, which happens for
ill-formed tuples only: DESIGN CHOICE (log 24); safe. -/
def valInt (x : Vector Int 6) (m : Mode) (k : Int) : Int :=
  match m with
  | .reg => x[(regOf k).val]
  | .imm => k
  | .ign => 0

/-- Listing R150 of `44_executor.md`, line by line. The listing is for well-formed programs only and
the spec gives an ill-formed tuple no behaviour (`91_not_in_source.md` N18). This function answers
a state there too: `regOf` reduces the index modulo 6 and takes a negative one as 0. DESIGN CHOICE
(log 24); safe, since `State.toTupleLevel` gives well-formed tuples only. -/
def tupleStep (s : TupleState) : TupleState :=
  if s.halted then s
  else
    let addr := s.x[s.ipsel.val]
    if 0 ≤ addr then
      match s.program[addr.toNat]? with
      | none => { s with halted := true }
      | some t =>
        let va := valInt s.x t.op.modeA t.a
        let vb := valInt s.x t.op.modeB t.b
        let x₁ := s.x.set (regOf t.c).val (aluInt t.op va vb)
        let x₂ := x₁.set s.ipsel.val (wrapInt (x₁[s.ipsel.val] + 1))
        { s with x := x₂, stepCnt := if s.stepBudget.isSome then s.stepCnt + 1 else s.stepCnt }
    else { s with halted := true }

/-- The tuple-level reading of a state: each register as a signed number, each instruction as its tuple. -/
def State.toTupleLevel (s : State) : TupleState where
  x := s.x.map BitVec.toInt
  ipsel := s.ipsel
  halted := s.halted
  program := s.program.map Instr.toTuple
  stepBudget := s.stepBudget
  stepCnt := s.stepCnt

end Sys2Proof.Machine
end

