-- ==== Sys2Proof/Machine/Launch.lean ====
section
/-! DEFINITION. Program construction (`30_encoding.md` R73) and launch (`10_state.md` R32,
`70_reset_and_hazards.md` R250): what the host does before the first step. A refusal here is no
state of the core: no execution state is created. -/

namespace Sys2Proof.Machine

/-- A constructed program: the validated instructions and the designated `IPSEL` that accompanies them
(`10_state.md` R23, R29; `90_conflicts.md` C7). A program that is not well-formed cannot be built:
its instructions and its index are legal by type, and `fits` says that `N <= MAX` (`30_encoding.md`
R62), so every launch is the launch of a validated program. -/
structure Program where
  code : Memory
  ipsel : RegIdx
  fits : code.wf = true
  deriving DecidableEq, Repr

/-- The tuple of a named tuple, refusing a name that is none of the sixteen (`30_encoding.md` R73). -/
def NamedTuple.resolve (t : NamedTuple) : Except Reject Tuple :=
  match Opcode.ofName t.name with
  | some op => .ok ⟨op, t.a, t.b, t.c⟩
  | none => .error .unknownOpcodeName

/-- The instructions of a list of named tuples, or the reason of the first one refused. -/
def assembleAll : List NamedTuple → Except Reject Memory
  | [] => .ok []
  | t :: ts =>
    match (NamedTuple.resolve t).bind Tuple.toInstr with
    | .error r => .error r
    | .ok i =>
      match assembleAll ts with
      | .error r => .error r
      | .ok is => .ok (i :: is)

/-- The instructions of a list of words, or the reason of the first malformed one (`30_encoding.md`
R66). -/
def decodeAll : List InstrWord → Except Reject Memory
  | [] => .ok []
  | w :: ws =>
    match decode w with
    | .error r => .error r
    | .ok i =>
      match decodeAll ws with
      | .error r => .error r
      | .ok is => .ok (i :: is)

/-- The checks on the whole program: `IPSEL` in 0 to 5, then `N <= MAX` (`30_encoding.md` R62). -/
def finishProgram (code : Memory) (ipsel : Int) : Except Reject Program :=
  if !isRegIndex ipsel then .error .ipselOutOfRange
  else if h : code.wf = true then .ok ⟨code, regOf ipsel, h⟩
  else .error .programTooLong

/-- Construction from the caller's list of named tuples and the designated index: ports `prog_load`
and `ipsel_cfg` (`30_encoding.md` R73, `60_exceptions.md` Table R211). The order in which the
checks are made is the model's (log 14). -/
def construct (src : List NamedTuple) (ipsel : Int) : Except Reject Program :=
  match assembleAll src with
  | .error r => .error r
  | .ok code => finishProgram code ipsel

/-- Construction at the word level (`30_encoding.md` R66, R73). -/
def constructWords (code : List InstrWord) (ipsel : Int) : Except Reject Program :=
  match decodeAll code with
  | .error r => .error r
  | .ok is => finishProgram is ipsel

/-- Launch: every field as `10_state.md` Table R32 gives it, ports `init_regs` and `launch`
(`70_reset_and_hazards.md` R250). -/
def launch (p : Program) (init : RegFile) (budget : Option Nat) : State where
  x := init
  ipsel := p.ipsel
  halted := false
  program := p.code
  stepBudget := budget
  stepCnt := 0

end Sys2Proof.Machine
end

