-- ==== Sys2Proof/Safety.lean ====
section
/-! DEFINITION. What counts as a legal state, as a frame and as a run, in the terms the statements use. -/

namespace Sys2Proof.Machine

/-- The invariant of launched states: the store is one that construction produces, `N <= MAX`
(`30_encoding.md` R62, R73); `halted` implies `at_halt` (`10_state.md` R26); and without a budget
nothing is counted (`10_state.md` R28). -/
structure State.Inv (s : State) : Prop where
  memory : s.program.wf = true
  haltedAtHalt : s.halted = true → s.atHalt = true
  uncounted : s.stepBudget = none → s.stepCnt = 0

/-- Nothing but the registers of `rs` may differ: every other register, `IPSEL`, `halted`, the whole
program store, the budget and the count are unchanged. -/
structure SameExcept (rs : List RegIdx) (s t : State) : Prop where
  regs : ∀ r, r ∉ rs → t.readReg r = s.readReg r
  ipsel : t.ipsel = s.ipsel
  halted : t.halted = s.halted
  program : t.program = s.program
  stepBudget : t.stepBudget = s.stepBudget
  stepCnt : t.stepCnt = s.stepCnt

/-- An instruction completes with the value `v` in `x[c]` and the frame of `10_state.md` R21: exactly
`x[c]` is written. -/
def WritesResult (i : Instr) (s : State) (c : RegIdx) (v : Word) : Prop :=
  ∃ t, exec i s = .next t ∧ t.readReg c = v ∧ SameExcept [c] s t

/-- The step at `s` executes the instruction `i` (an executing step, `00_scope.md` R13): the core is not
halted, the address is in range and the store holds `i` there. -/
structure Executes (s : State) (i : Instr) : Prop where
  running : s.halted = false
  low : 0 ≤ s.pc.toInt
  high : s.pc.toInt < s.program.length
  fetched : s.program[s.pc.toInt.toNat]? = some i

/-- `v` is `wrap(n)` by its defining property: the one value of `[MIN, MAX]` congruent to `n` modulo
`2^XLEN` (`00_scope.md` R10). -/
def IsWrap (n v : Int) : Prop :=
  Config.minVal ≤ v ∧ v ≤ Config.maxVal ∧ v % 18446744073709551616 = n % 18446744073709551616

/-- The registers an instruction names as source operands: those of its register-mode fields
(`10_state.md` R21). -/
def readsOf : Instr → List RegIdx
  | .addr a b _ | .mulr a b _ | .banr a b _ | .borr a b _ | .gtrr a b _ | .eqrr a b _ => [a, b]
  | .addi a _ _ | .muli a _ _ | .bani a _ _ | .bori a _ _ => [a]
  | .setr a _ _ | .gtri a _ _ | .eqri a _ _ => [a]
  | .gtir _ b _ | .eqir _ b _ => [b]
  | .seti _ _ _ => []

/-- `n` steps of the core from `s` reach `t`. -/
def Reaches (n : Nat) (s t : State) : Prop := Sys2Proof.core.run n s = .next t

end Sys2Proof.Machine
end

