-- ==== Sys2Proof/Certificates/Slice0/Obligations.lean ====
section
/-! DEFINITION. The statements about the model. A statement whose docstring names a log entry rests, in
that point, on a choice (the spec's own decision or the model's) and not on the source's text. -/

open Sys2Proof Sys2Proof.Machine

/-! ### Encoding and construction -/

/-- Decoding the encoding of any instruction gives it back, with every field at every value (the first
half of `30_encoding.md` R72). The word layout is the spec's decision D4 (log 8). -/
def Obligations.DecodeOfEncode : Prop :=
  ∀ i : Instr, decode (encode i) = .ok i

/-- A word the decoder accepts is the encoding of what it reads, so no bit of a legal word is ignored
(the second half of `30_encoding.md` R72; D4, log 8). -/
def Obligations.EncodeOfDecode : Prop :=
  ∀ (w : InstrWord) (i : Instr), decode w = .ok i → encode i = w

/-- The malformed words of `30_encoding.md` R66, each with its reason, in the rule's order, and no
others; the bit places are those of R63 (D4, log 8). -/
def Obligations.DecodeRefusesExactlyMalformedWords : Prop :=
  ∀ w : InstrWord,
    let n := w.toNat
    let op := Opcode.ofNumber (BitVec.ofNat 4 (n % 16))
    let c := n / 16 % 8
    let a := (BitVec.ofNat 64 (n / 2 ^ 8 % 2 ^ 64)).toInt
    let b := (BitVec.ofNat 64 (n / 2 ^ 72)).toInt
    let badOperand := (op.modeA = .reg ∧ ¬(0 ≤ a ∧ a ≤ 5)) ∨ (op.modeB = .reg ∧ ¬(0 ≤ b ∧ b ≤ 5))
    (n / 128 % 2 = 1 → decode w = .error .reservedBitSet) ∧
    (n / 128 % 2 = 0 → 6 ≤ c → decode w = .error .destinationOutOfRange) ∧
    (n / 128 % 2 = 0 → c < 6 → badOperand → decode w = .error .operandOutOfRegisterRange) ∧
    (n / 128 % 2 = 0 → c < 6 → ¬badOperand →
      ∃ i, decode w = .ok i ∧ i.toTuple = ⟨op, a, b, c⟩)

/-- The match and mask of `30_encoding.md` R64: `word & 0x8F` is the number of the instruction's opcode,
in the order of Table R61 (D5, log 8). -/
def Obligations.MaskedWordIsOpcodeNumber : Prop :=
  ∀ (w : InstrWord) (i : Instr), decode w = .ok i →
    w &&& 0x8F#136 = i.opcode.number.setWidth 136 ∧
    Opcode.table.toList[i.opcode.number.toNat]? = some i.opcode

/-- Words printed in the spec decode to the instructions printed beside them, one or more of each
family (`40_arithmetic.md`, `41_bitwise.md`, `42_assignment.md`, `43_comparison.md`; D4, D5, log 8). -/
def Obligations.PrintedWordsDecode : Prop :=
  decode 0x0000000000000001000000000000000020#136 = .ok (.addr 0 1 2) ∧
  decode 0xFFFFFFFFFFFFFFFF000000000000000521#136 = .ok (.addi 5 (-1) 2) ∧
  decode 0xFFFFFFFFFFFFFFFC000000000000000123#136 = .ok (.muli 1 (-4) 2) ∧
  decode 0x0000000000FFFFFF000000000000000425#136 = .ok (.bani 4 16777215 2) ∧
  decode 0x0000000000000003000000000000000026#136 = .ok (.borr 0 3 2) ∧
  decode 0x0000000000000063000000000000000128#136 = .ok (.setr 1 99 2) ∧
  decode 0x000000000000004DFFFFFFFFFFFFFFFF29#136 = .ok (.seti (-1) 77 2) ∧
  decode 0x0000000000000001FFFFFFFFFFFFFFFC2A#136 = .ok (.gtir (-4) 1 2) ∧
  decode 0x7FFFFFFFFFFFFFFF00000000000000044E#136 = .ok (.eqri 4 9223372036854775807 4)

/-- A tuple is assembled exactly when it is well-formed by `30_encoding.md` R62, and whatever it is
assembled to is that tuple. The range of an immediate is the spec's decision D18 (log 15). -/
def Obligations.TupleAssemblesIffWellFormed : Prop :=
  ∀ t : Tuple, ((∃ i, t.toInstr = .ok i) ↔ t.wf = true) ∧ ∀ i, t.toInstr = .ok i → i.toTuple = t

/-- Construction succeeds exactly on the well-formed programs of `30_encoding.md` R62, and the
constructed store holds the given instructions in order. The bound on the length is the spec's
decision D15 (log 16). -/
def Obligations.ConstructAcceptsExactlyWellFormed : Prop :=
  ∀ (src : List NamedTuple) (k : Int),
    ((∃ p, construct src k = .ok p) ↔
      ∃ ts, src.map NamedTuple.resolve = ts.map .ok ∧ wfProgram ts k = true) ∧
    ∀ p, construct src k = .ok p →
      src.map NamedTuple.resolve = p.code.map (fun i => .ok i.toTuple) ∧ (p.ipsel.val : Int) = k

/-- Construction from words succeeds exactly on lists of legal words of legal length with an index 0 to
5; the constructed store holds the instructions of the words in order, and reading it at the word
level gives the words back (`30_encoding.md` R66, R72, R73, `20_memory.md` R41). The layout of a
word is the spec's decision D4 (log 8), the bound on the length D15 (log 16), and that the store
holds the decoded instructions the model's choice (log 1). -/
def Obligations.ConstructWordsAcceptsExactlyLegalWords : Prop :=
  ∀ (code : List InstrWord) (k : Int),
    ((∃ p, constructWords code k = .ok p) ↔
      (∀ w ∈ code, ∃ i, decode w = .ok i) ∧ 0 ≤ k ∧ k ≤ 5 ∧
        (code.length : Int) ≤ Config.maxVal) ∧
    ∀ p, constructWords code k = .ok p →
      code.map decode = p.code.map .ok ∧ p.code.map encode = code ∧ (p.ipsel.val : Int) = k

/-- The program store (`10_state.md` R29): a constructed program has one well-formed instruction for
each given one, launch puts it in the store, and no instruction and no step writes it. -/
def Obligations.ProgramStoreIsImmutable : Prop :=
  (∀ src k p, construct src k = .ok p → p.code.length = src.length ∧
    (∀ i ∈ p.code, i.toTuple.wf = true) ∧
    ∀ init budget, (launch p init budget).program = p.code) ∧
  (∀ i s, ∃ t, exec i s = .next t ∧ t.program = s.program) ∧
  (∀ s t, step s = .next t → t.program = s.program)

/-- Every fetch of an address finds the same instruction for the whole run (`20_memory.md` R50). -/
def Obligations.FetchSeesSameProgramForWholeRun : Prop :=
  (∀ i s, ∃ t, exec i s = .next t ∧ ∀ a, t.program.read a = s.program.read a) ∧
  ∀ n s t, Reaches n s t → ∀ a, t.program.read a = s.program.read a

/-- `IPSEL` (`10_state.md` R23): only 0 to 5 is accepted at construction, the others (of a program whose
instructions are accepted) are refused by name; launch copies it; no instruction and no step changes
it; no instruction reads it. Which reason is reported when several apply (a bad instruction before a
bad index, a bad index before a long program) is the model's choice (log 14). -/
def Obligations.IpselIsFixedAndUnread : Prop :=
  (∀ src k p, construct src k = .ok p → 0 ≤ k ∧ k ≤ 5 ∧ (p.ipsel.val : Int) = k) ∧
  (∀ src code k, assembleAll src = .ok code → k < 0 ∨ 5 < k →
    construct src k = .error .ipselOutOfRange) ∧
  (∀ p init budget, (launch p init budget).ipsel = p.ipsel) ∧
  (∀ s t, step s = .next t → t.ipsel = s.ipsel) ∧
  (∀ i s k, ∃ t, exec i s = .next t ∧ t.ipsel = s.ipsel ∧
    exec i { s with ipsel := k } = .next { t with ipsel := k })

/-! ### The register file and the instructions -/

/-- The register file (`10_state.md` R20): a write is read back whole, no other register changes, every
value is in `[MIN, MAX]`, and the only alias is the program counter. -/
def Obligations.RegisterFileReadsBackWrites : Prop :=
  ∀ (s : State) (k : RegIdx) (v : Word),
    (s.writeReg k v).readReg k = v ∧ SameExcept [k] s (s.writeReg k v) ∧
    Config.minVal ≤ (s.readReg k).toInt ∧ (s.readReg k).toInt ≤ Config.maxVal ∧
    s.pc = s.readReg s.ipsel

/-- `addr` and `addi` (`40_arithmetic.md` R100, R101, R104): they complete with the wrapped sum in
`x[c]` and nothing else changed. That an overflow wraps is the spec's decision D2 (log 6). -/
def Obligations.AddInstructionsWriteWrappedSum : Prop :=
  (∀ (a b c : RegIdx) (s : State), ∃ t, exec (.addr a b c) s = .next t ∧ SameExcept [c] s t ∧
    IsWrap ((s.readReg a).toInt + (s.readReg b).toInt) (t.readReg c).toInt) ∧
  (∀ (a : RegIdx) (b : Word) (c : RegIdx) (s : State), ∃ t, exec (.addi a b c) s = .next t ∧
    SameExcept [c] s t ∧ IsWrap ((s.readReg a).toInt + b.toInt) (t.readReg c).toInt)

/-- `mulr` and `muli` (`40_arithmetic.md` R102, R103, R105): they complete with the wrapped product in
`x[c]` and nothing else changed. That an overflow wraps is the spec's decision D2 (log 6). -/
def Obligations.MulInstructionsWriteWrappedProduct : Prop :=
  (∀ (a b c : RegIdx) (s : State), ∃ t, exec (.mulr a b c) s = .next t ∧ SameExcept [c] s t ∧
    IsWrap ((s.readReg a).toInt * (s.readReg b).toInt) (t.readReg c).toInt) ∧
  (∀ (a : RegIdx) (b : Word) (c : RegIdx) (s : State), ∃ t, exec (.muli a b c) s = .next t ∧
    SameExcept [c] s t ∧ IsWrap ((s.readReg a).toInt * b.toInt) (t.readReg c).toInt)

/-- `banr`, `bani`, `borr`, `bori` (`41_bitwise.md` R110 to R114): they complete with every bit of
`x[c]` computed from the two bits at its position, and nothing else changed. That a negative
value has two's complement bits is the spec's decision D3 (log 7). -/
def Obligations.BitwiseInstructionsActPerBit : Prop :=
  (∀ (a b c : RegIdx) (s : State), ∃ t, exec (.banr a b c) s = .next t ∧ SameExcept [c] s t ∧
    ∀ j, (t.readReg c).getLsbD j = ((s.readReg a).getLsbD j && (s.readReg b).getLsbD j)) ∧
  (∀ (a : RegIdx) (b : Word) (c : RegIdx) (s : State), ∃ t, exec (.bani a b c) s = .next t ∧
    SameExcept [c] s t ∧ ∀ j, (t.readReg c).getLsbD j = ((s.readReg a).getLsbD j && b.getLsbD j)) ∧
  (∀ (a b c : RegIdx) (s : State), ∃ t, exec (.borr a b c) s = .next t ∧ SameExcept [c] s t ∧
    ∀ j, (t.readReg c).getLsbD j = ((s.readReg a).getLsbD j || (s.readReg b).getLsbD j)) ∧
  (∀ (a : RegIdx) (b : Word) (c : RegIdx) (s : State), ∃ t, exec (.bori a b c) s = .next t ∧
    SameExcept [c] s t ∧ ∀ j, (t.readReg c).getLsbD j = ((s.readReg a).getLsbD j || b.getLsbD j))

/-- The bounds of `&` and `|` in the signed order (`41_bitwise.md` R114; D3, log 7). -/
def Obligations.BitwiseSignedBounds : Prop :=
  ∀ p q : Word,
    ((bitAnd p q).toInt < 0 ↔ p.toInt < 0 ∧ q.toInt < 0) ∧
    ((bitOr p q).toInt < 0 ↔ p.toInt < 0 ∨ q.toInt < 0) ∧
    (0 ≤ p.toInt → 0 ≤ (bitAnd p q).toInt ∧ (bitAnd p q).toInt ≤ p.toInt) ∧
    (0 ≤ q.toInt → 0 ≤ (bitAnd p q).toInt ∧ (bitAnd p q).toInt ≤ q.toInt) ∧
    (0 ≤ p.toInt → 0 ≤ q.toInt → p.toInt ≤ (bitOr p q).toInt ∧ q.toInt ≤ (bitOr p q).toInt)

/-- The laws of wrapped addition and multiplication (`40_arithmetic.md` R104, R105; D2, log 6). -/
def Obligations.WrappedArithmeticLaws : Prop :=
  ∀ p q r : Word,
    addWrap p q = addWrap q p ∧ addWrap (addWrap p q) r = addWrap p (addWrap q r) ∧
    addWrap p 0 = p ∧ addWrap p (wrap (-p.toInt)) = 0 ∧
    mulWrap p q = mulWrap q p ∧ mulWrap (mulWrap p q) r = mulWrap p (mulWrap q r) ∧
    mulWrap p 1 = p ∧ mulWrap p 0 = 0 ∧ mulWrap p (-1) = wrap (-p.toInt) ∧
    mulWrap p (addWrap q r) = addWrap (mulWrap p q) (mulWrap p r)

/-- `setr` and `seti` (`42_assignment.md` R120, R121): they complete with the register or the immediate
in `x[c]`, nothing else changed, and the same whatever the ignored field holds (`30_encoding.md`
R67, the spec's decision D19, log 15). -/
def Obligations.AssignmentInstructionsCopy : Prop :=
  (∀ (a : RegIdx) (b : Word) (c : RegIdx) (s : State),
    WritesResult (.setr a b c) s c (s.readReg a) ∧
    ∀ b', exec (.setr a b' c) s = exec (.setr a b c) s) ∧
  (∀ (a b : Word) (c : RegIdx) (s : State),
    WritesResult (.seti a b c) s c a ∧ ∀ b', exec (.seti a b' c) s = exec (.seti a b c) s)

/-- `gtir`, `gtri`, `gtrr` (`43_comparison.md` R130, R131, R132, R136): they complete with 1 in `x[c]` if
the first operand is greater as a signed number and 0 otherwise, and nothing else changed. -/
def Obligations.GreaterThanInstructionsCompareSigned : Prop :=
  (∀ (a : Word) (b c : RegIdx) (s : State),
    WritesResult (.gtir a b c) s c (if a.toInt > (s.readReg b).toInt then 1 else 0)) ∧
  (∀ (a : RegIdx) (b : Word) (c : RegIdx) (s : State),
    WritesResult (.gtri a b c) s c (if (s.readReg a).toInt > b.toInt then 1 else 0)) ∧
  (∀ (a b c : RegIdx) (s : State),
    WritesResult (.gtrr a b c) s c (if (s.readReg a).toInt > (s.readReg b).toInt then 1 else 0))

/-- `eqir`, `eqri`, `eqrr` (`43_comparison.md` R133, R134, R135, R136): they complete with 1 in `x[c]` if
the two operands are the same signed number and 0 otherwise, and nothing else changed. -/
def Obligations.EqualityInstructionsCompareWhole : Prop :=
  (∀ (a : Word) (b c : RegIdx) (s : State),
    WritesResult (.eqir a b c) s c (if a.toInt = (s.readReg b).toInt then 1 else 0)) ∧
  (∀ (a : RegIdx) (b : Word) (c : RegIdx) (s : State),
    WritesResult (.eqri a b c) s c (if (s.readReg a).toInt = b.toInt then 1 else 0)) ∧
  (∀ (a b c : RegIdx) (s : State),
    WritesResult (.eqrr a b c) s c (if (s.readReg a).toInt = (s.readReg b).toInt then 1 else 0))

/-- A comparison leaves exactly 0 or exactly 1 in `x[c]`, and adding such a value to `x[IPSEL]`, in
either operand order, skips exactly that many instructions (`43_comparison.md` R137). The next
address is a 64-bit sum: that it wraps is the spec's decision D2 (log 6). -/
def Obligations.ComparisonOutcomeIsZeroOrOne : Prop :=
  (∀ (i : Instr) (s : State),
    i.opcode ∈ [Opcode.gtir, .gtri, .gtrr, .eqir, .eqri, .eqrr] →
    ∃ t, exec i s = .next t ∧ (t.readReg i.dest = 0 ∨ t.readReg i.dest = 1)) ∧
  (∀ (s : State) (r : RegIdx),
    Executes s (.addr s.ipsel r s.ipsel) ∨ Executes s (.addr r s.ipsel s.ipsel) →
    s.readReg r = 0 ∨ s.readReg r = 1 →
    ∃ t, step s = .next t ∧ t.pc = s.pc + 1 + s.readReg r)

/-- The value an instruction writes depends only on the registers its register-mode fields name
(`10_state.md` R21, `44_executor.md` R162). -/
def Obligations.ResultDependsOnNamedOperandsOnly : Prop :=
  ∀ (i : Instr) (s₁ s₂ : State), (∀ r ∈ readsOf i, s₁.readReg r = s₂.readReg r) →
    ∃ t₁ t₂, exec i s₁ = .next t₁ ∧ exec i s₂ = .next t₂ ∧
      t₁.readReg i.dest = t₂.readReg i.dest

/-- No instruction faults or is refused, and no step from any state is (`60_exceptions.md` R200). -/
def Obligations.CoreRaisesNoException : Prop :=
  (∀ (i : Instr) (s : State), ∃ t, exec i s = .next t) ∧ ∀ s : State, ∃ t, step s = .next t

/-! ### The step -/

/-- The step at a state that is not halted and whose fetch finds an instruction is the instruction's own
effect, then the increment of the bound register as the instruction left it, then the count
(`44_executor.md` R150, R151). The split into the two parts is the model's (log 22). -/
def Obligations.StepRunsDecodedInstruction : Prop :=
  ∀ (s : State) (i : Instr), Executes s i →
    ∃ t, exec i s = .next t ∧
      step s = .next { t.writeReg t.ipsel (addWrap (t.readReg t.ipsel) 1) with
        stepCnt := if t.stepBudget.isSome then t.stepCnt + 1 else t.stepCnt }

/-- The fetch at the word level is the decoding of the word at the address, and there is a word exactly
at the addresses `[0, N)` (`20_memory.md` R41). The word level is the spec's decisions D4 and D16
(logs 1 and 8). -/
def Obligations.FetchDecodesWordAtAddress : Prop :=
  ∀ (m : Memory) (a : Int),
    (∀ w, m.readWord a = some w → ∃ i, m.read a = some i ∧ decode w = .ok i) ∧
    ((∃ w, m.readWord a = some w) ↔ 0 ≤ a ∧ a < m.length)

/-- In every run of a program constructed from words, a step at an address in range executes the
instruction the word at that address decodes to (`20_memory.md` R41, R50, `44_executor.md` R150;
the word layout is D4, log 8, and that words are decoded at construction the model's choice,
log 1). -/
def Obligations.RunExecutesConstructedWords : Prop :=
  ∀ code k p init budget, constructWords code k = .ok p →
    ∀ (n : Nat) (s : State) (w : InstrWord), Reaches n (launch p init budget) s →
      s.halted = false → 0 ≤ s.pc.toInt → code[s.pc.toInt.toNat]? = some w →
      ∃ i, decode w = .ok i ∧ Executes s i

/-- The halt step (`44_executor.md` R152): at an address below 0 or at or above `N` nothing changes but
`halted`, which becomes 1. -/
def Obligations.HaltStepSetsOnlyHalted : Prop :=
  ∀ s : State, s.halted = false → s.pc.toInt < 0 ∨ (s.program.length : Int) ≤ s.pc.toInt →
    step s = .next { s with halted := true }

/-- A step in the halted state changes nothing (`44_executor.md` R157, the spec's decision D6,
log 9). -/
def Obligations.HaltedStepIsIdentity : Prop :=
  ∀ s : State, s.halted = true → step s = .next s

/-- The increment follows the write and is never skipped (`44_executor.md` R151, R156): the next address
is one more than the value the instruction left in the bound register, which is its result if it
wrote that register and its own address if not. The wrap is the spec's decision D2 (log 6). -/
def Obligations.IncrementFollowsWriteAlways : Prop :=
  ∀ (s : State) (i : Instr), Executes s i →
    ∃ v t, WritesResult i s i.dest v ∧ step s = .next t ∧
      IsWrap ((if i.dest = s.ipsel then v.toInt else s.pc.toInt) + 1) t.pc.toInt

/-- A write to the bound register is a jump to the value plus one, for all sixteen opcodes; out of
range it is a halt; the source's test continues at 6 (`44_executor.md` R153). That the value plus
one wraps at `MAX` is the spec's decision D2 (log 6), so the statement is derived. -/
def Obligations.WriteToIpselRegisterIsJump : Prop :=
  (∀ (s : State) (i : Instr), Executes s i → i.dest = s.ipsel →
    ∃ v t, WritesResult i s i.dest v ∧ step s = .next t ∧ IsWrap (v.toInt + 1) t.pc.toInt ∧
      t.program = s.program ∧
      (∀ j, 0 ≤ t.pc.toInt → t.pc.toInt < s.program.length →
        s.program[t.pc.toInt.toNat]? = some j → Executes t j) ∧
      (¬(0 ≤ t.pc.toInt ∧ t.pc.toInt < s.program.length) →
        step t = .next { t with halted := true })) ∧
  (∀ (s : State) (b : Word), Executes s (.seti 5 b s.ipsel) → s.pc = 0 →
    ∃ t, step s = .next t ∧ t.pc = 6)

/-- An instruction that does not write the bound register is followed by the one at the next address
(`44_executor.md` R155), on every store of a legal length. -/
def Obligations.SequentialExecution : Prop :=
  ∀ (s : State) (i : Instr), (s.program.length : Int) ≤ Config.maxVal → Executes s i →
    i.dest ≠ s.ipsel → ∃ t, step s = .next t ∧ t.pc.toInt = s.pc.toInt + 1

/-- What one executing step changes (`44_executor.md` R163): at most `x[c]` and `x[IPSEL]`; the count goes
up by one exactly when a budget is configured; all else is unchanged. -/
def Obligations.ExecutingStepFrame : Prop :=
  ∀ (s : State) (i : Instr), Executes s i →
    ∃ v t, WritesResult i s i.dest v ∧ step s = .next t ∧
      (i.dest ≠ s.ipsel → t.readReg i.dest = v) ∧
      (∀ r, r ≠ i.dest → r ≠ s.ipsel → t.readReg r = s.readReg r) ∧
      t.ipsel = s.ipsel ∧ t.halted = s.halted ∧ t.program = s.program ∧
      t.stepBudget = s.stepBudget ∧
      t.stepCnt = s.stepCnt + (if s.stepBudget = none then 0 else 1)

/-- The registers change only in an executing step, and in it by the instruction's write and then the
increment (`10_state.md` R22). -/
def Obligations.RegistersChangeOnlyInExecutingStep : Prop :=
  ∀ s t : State, step s = .next t →
    t.x = s.x ∨
    ∃ i v, Executes s i ∧ WritesResult i s i.dest v ∧
      t.x = ((s.writeReg i.dest v).writeReg s.ipsel
        (addWrap ((s.writeReg i.dest v).readReg s.ipsel) 1)).x

/-- `halted` is set by a step that finds the address out of range and by nothing else, is never
cleared, and a halt address stays one (`10_state.md` R26). -/
def Obligations.HaltedIsSetOnlyByHaltStep : Prop :=
  ∀ s t : State, step s = .next t →
    (t.halted = true ↔ s.halted = true ∨ s.atHalt = true) ∧
    (s.atHalt = true → t.atHalt = true ∧ t.x = s.x)

/-- The control-transfer idioms of `44_executor.md` Table R160, at any address `t` = `x[IPSEL]`, as sums
of 64-bit words. -/
def Obligations.ControlTransferIdioms : Prop :=
  ∀ (s : State) (k T v : Word) (r : RegIdx),
    (Executes s (.seti (T - 1) v s.ipsel) → ∃ t, step s = .next t ∧ t.pc = T) ∧
    (Executes s (.addi s.ipsel k s.ipsel) → ∃ t, step s = .next t ∧ t.pc = s.pc + k + 1) ∧
    (Executes s (.addi s.ipsel (-1) s.ipsel) → ∃ t, step s = .next t ∧ t.pc = s.pc ∧ t.x = s.x) ∧
    (Executes s (.addr s.ipsel r s.ipsel) ∨ Executes s (.addr r s.ipsel s.ipsel) →
      ∃ t, step s = .next t ∧ t.pc = s.pc + 1 + s.readReg r) ∧
    (Executes s (.setr r v s.ipsel) → ∃ t, step s = .next t ∧ t.pc = s.readReg r + 1) ∧
    (r ≠ s.ipsel → Executes s (.setr s.ipsel v r) →
      ∃ t, step s = .next t ∧ t.pc = s.pc + 1 ∧ t.readReg r = s.pc) ∧
    (r ≠ s.ipsel → Executes s (.addi s.ipsel 1 r) →
      ∃ t, step s = .next t ∧ t.readReg r = s.pc + 1)

/-- The word `withFetchWord` places is the one the next step executes. How it is placed is the model's
choice (log 4). -/
def Obligations.PlacedWordExecutesNext : Prop :=
  ∀ (s : State) (nbits w : Nat) (i : Instr), decodeTableWord nbits w = some i →
    Executes (s.withFetchWord nbits w) i

/-! ### Invariants and runs -/

/-- Every step from a state that meets the invariant gives a state that meets it. The stored `halted`
bit is the spec's decision D6 (log 9), the count without a budget the model's (log 11). -/
def Obligations.InvariantKeptByStep : Prop :=
  ∀ s t : State, s.Inv → step s = .next t → t.Inv

/-- The reset state, the model's choice of a launch state (logs 2 and 3), meets the invariant. -/
def Obligations.InvariantHoldsAtReset : Prop := State.reset.Inv

/-- Launch (`70_reset_and_hazards.md` R250): six given register values, the program's index and store,
and the first fetch at `INIT[IPSEL]`. That `halted` and `STEPCNT` are 0 at launch is the spec's
decisions D14 and D11 (log 23), so the statement is derived. -/
def Obligations.LaunchSetsExactlyItsInputs : Prop :=
  ∀ (p : Program) (init : RegFile) (budget : Option Nat),
    let s := launch p init budget
    (∀ r, s.readReg r = init[r.val]) ∧ s.ipsel = p.ipsel ∧ s.halted = false ∧ s.stepCnt = 0 ∧
    s.program = p.code ∧ s.stepBudget = budget ∧
    s.fetch = p.code.read (init[p.ipsel.val]).toInt

/-- Every launch meets the invariant, whatever the initial registers and the budget: of a program
constructed at the tuple level or at the word level, and so of any `Program`, since it carries its
validity (`30_encoding.md` R73, `10_state.md` R32). The values of `halted` and `STEPCNT` are the
spec's decisions D14 and D11 (log 23). -/
def Obligations.InvariantHoldsAtLaunch : Prop :=
  ∀ (p : Program) (init : RegFile) (budget : Option Nat), (launch p init budget).Inv

/-- No run of a constructed program ever faults or is refused, whether it was constructed from named
tuples or from words, and every state of the run meets the invariant: a malformed instruction never
surfaces mid-run (`60_exceptions.md` R200, R202, `30_encoding.md` R73). -/
def Obligations.LaunchedRunNeverStopsAbnormally : Prop :=
  (∀ src k p init budget, construct src k = .ok p →
    ∀ n, ∃ t, Reaches n (launch p init budget) t ∧ t.Inv) ∧
  (∀ code k p init budget, constructWords code k = .ok p →
    ∀ n, ∃ t, Reaches n (launch p init budget) t ∧ t.Inv)

/-- A halt is final: every later state is the halted one (`44_executor.md` R157, the spec's decision
D6, log 9; `60_exceptions.md` R207). -/
def Obligations.HaltIsFinal : Prop :=
  ∀ n s t, s.halted = true → Reaches n s t → t = s

/-- A run that returns to a state it was in before never halts (`44_executor.md` R164). With a budget the
count never repeats, so the hypothesis is met by runs without one. -/
def Obligations.RunThatReturnsNeverHalts : Prop :=
  ∀ n s, s.halted = false → Reaches (n + 1) s s →
    ∀ m, ∃ t, Reaches m s t ∧ t.halted = false

/-- The machine on 64-bit values and checked instructions computes, step for step and from every state,
the normative machine on tuples and mathematical integers (`00_scope.md` R7, `44_executor.md`
Listing R150 and R162; D2 and D3, logs 6 and 7). -/
def Obligations.StepRefinesTupleLevel : Prop :=
  ∀ s : State, ∃ t, step s = .next t ∧ t.toTupleLevel = tupleStep s.toTupleLevel

/-! ### The run loops and the host's observer -/

/-- `run_to_halt` without a budget ends exactly when some number of steps reaches a halted state, with
that state's registers (`44_executor.md` R158). The bound on turns is the model's (log 12). -/
def Obligations.RunToHaltAnswersFinalRegisters : Prop :=
  ∀ (fuel : Nat) (s : State) (r : RegFile), s.stepBudget = none →
    (runToHalt fuel s = .next (.halted r) ↔
      ∃ n t, n < fuel ∧ Reaches (n + 1) s t ∧ t.halted = true ∧ t.x = r)

/-- `BudgetExceeded` (`60_exceptions.md` R210, the spec's decision D11): a run launched with budget `b`
ends so, with registers `r`, exactly when `b` steps reach a state that has counted `b`, is not
halted, whose address is in range and whose registers are `r`. The bound on turns is the model's
(log 12). -/
def Obligations.BudgetExceededAfterExactlyBudget : Prop :=
  ∀ (fuel : Nat) (p : Program) (init : RegFile) (b : Nat) (r : RegFile),
    runToHalt fuel (launch p init (some b)) = .next (.budgetExceeded r) ↔
      ∃ t, b < fuel ∧ Reaches b (launch p init (some b)) t ∧ t.stepCnt = b ∧
        t.halted = false ∧ t.atHalt = false ∧ t.x = r

/-- `Halted` under a budget (`60_exceptions.md` R210, `90_conflicts.md` C10, the spec's decision D11): a
run launched with budget `b` ends so, with registers `r`, exactly when some number of executing
steps that is at most `b` reaches a halt address with registers `r`. A halt address found when the
budget is just used up is `Halted`, and with enough turns the loop always ends in one of the two
ways. The bound on turns is the model's (log 12). -/
def Obligations.BudgetedRunHaltsWithinBudget : Prop :=
  ∀ (fuel : Nat) (p : Program) (init : RegFile) (b : Nat),
    (∀ r, runToHalt fuel (launch p init (some b)) = .next (.halted r) ↔
      ∃ n t, n < fuel ∧ n ≤ b ∧ Reaches n (launch p init (some b)) t ∧ t.stepCnt = n ∧
        t.halted = false ∧ t.atHalt = true ∧ t.x = r) ∧
    (b < fuel → ∃ r, runToHalt fuel (launch p init (some b)) = .next (.halted r) ∨
      runToHalt fuel (launch p init (some b)) = .next (.budgetExceeded r))

/-- `STEPCNT` counts executing steps since launch (`60_exceptions.md` R210, `10_state.md` R28, the spec's
decision D11, log 11): with a budget, while the core runs it is the number of steps, and once it is
halted it is the number of steps before the halt step, which leaves it unchanged; without a budget
it stays 0. -/
def Obligations.StepCountCountsExecutingSteps : Prop :=
  ∀ (p : Program) (init : RegFile) (budget : Option Nat) (n : Nat) (t : State),
    Reaches n (launch p init budget) t →
    (budget = none → t.stepCnt = 0) ∧
    (budget ≠ none → t.halted = false → t.stepCnt = n) ∧
    (t.halted = true → ∃ m u, m < n ∧ Reaches m (launch p init budget) u ∧
      u.halted = false ∧ u.atHalt = true ∧ t = { u with halted := true } ∧
      (budget ≠ none → t.stepCnt = m)) ∧
    t.stepCnt ≤ n

/-- An observer that never asks for a stop changes nothing: the loop is `run_to_halt`
(`44_executor.md` R159). -/
def Obligations.PassiveObserverLoopIsRunToHalt : Prop :=
  ∀ (ω : Type) (observe : ω → RegFile → ω × Request), (∀ o r, (observe o r).2 = .goOn) →
    ∀ (fuel : Nat) (o : ω) (s : State) (e : RunEnd),
      (∃ o', runWithObserver observe fuel o s = .next (e, o')) ↔ runToHalt fuel s = .next e

/-- A stop by the observer leaves a state of the one execution, not halted, with the registers the
observer saw (`60_exceptions.md` R213, `70_reset_and_hazards.md` R258). -/
def Obligations.ObserverStopIsAStateOfTheRun : Prop :=
  ∀ (ω : Type) (observe : ω → RegFile → ω × Request) (fuel : Nat) (o o' : ω) (s : State)
    (r : RegFile),
    runWithObserver observe fuel o s = .next (.stopped r, o') →
    ∃ n t o₁, n < fuel ∧ Reaches (n + 1) s t ∧ t.halted = false ∧ t.x = r ∧
      observe o₁ r = (o', .stop)

/-- The cycle detector outside the core (`60_exceptions.md` R216, `90_conflicts.md` C9): on a sequence
of distinct values followed by one of them, it reports the last of the distinct values, and has
kept the first. -/
def Obligations.DetectorReportsLastNovelValue : Prop :=
  ∀ (v : Int) (vs : List Int) (w : Int), (v :: vs).Nodup → w ∈ v :: vs →
    let d := (v :: vs).foldl (fun d u => (d.observe u).1) Detector.fresh
    d.first = some v ∧ d.terminal = false ∧
      (d.observe w).2 = .terminal ((v :: vs).getLast (List.cons_ne_nil v vs)) ∧
      (d.observe w).1.terminal = true
end

