-- ==== Sys2Proof/Laws/PerInstr.lean ====
section
/-! SUPPORT. Facts about each instruction as syntax, one lemma per constructor. -/

namespace Sys2Proof.Laws

/-- A register index, as an operand field, reads as its own number. -/
theorem toInt_regField (k : RegIdx) : (regField k).toInt = (k.val : Int) := by
  revert k; decide

/-- Every word is a value of `[MIN, MAX]`. -/
theorem isValue_toInt (v : Word) : isValue v.toInt = true := by
  have := v.isLt
  simp only [isValue, Config.minVal, Config.maxVal, Bool.and_eq_true, decide_eq_true_eq,
    BitVec.toInt_eq_toNat_cond]
  split <;> omega

/-- A register index passes the register-index check. -/
theorem isRegIndex_val (k : RegIdx) : isRegIndex (k.val : Int) = true := by
  revert k; decide

/-- The check of a tuple made of legal fields: only the register fields are left to look at. -/
theorem wf_of_fields {i : Instr} (ha : i.opcode.modeA.fieldOk i.fieldA.toInt = true)
    (hb : i.opcode.modeB.fieldOk i.fieldB.toInt = true) : i.toTuple.wf = true := by
  simp [Tuple.wf, Instr.toTuple, ha, hb, isValue_toInt, isRegIndex_val]

/-- A register field passes its check in register mode. -/
theorem fieldOk_regField (k : RegIdx) : Mode.reg.fieldOk (regField k).toInt = true := by
  simp [Mode.fieldOk, toInt_regField, isRegIndex_val]

namespace WellFormedTuple

/-- The source's tuple of the instruction passes every check of `30_encoding.md` R62. -/
def Statement (i : Instr) : Prop := i.toTuple.wf = true

theorem addr (a b c : RegIdx) : Statement (.addr a b c) :=
  wf_of_fields (fieldOk_regField a) (fieldOk_regField b)

theorem addi (a : RegIdx) (q : Word) (c : RegIdx) : Statement (.addi a q c) :=
  wf_of_fields (fieldOk_regField a) rfl

theorem mulr (a b c : RegIdx) : Statement (.mulr a b c) :=
  wf_of_fields (fieldOk_regField a) (fieldOk_regField b)

theorem muli (a : RegIdx) (q : Word) (c : RegIdx) : Statement (.muli a q c) :=
  wf_of_fields (fieldOk_regField a) rfl

theorem banr (a b c : RegIdx) : Statement (.banr a b c) :=
  wf_of_fields (fieldOk_regField a) (fieldOk_regField b)

theorem bani (a : RegIdx) (q : Word) (c : RegIdx) : Statement (.bani a q c) :=
  wf_of_fields (fieldOk_regField a) rfl

theorem borr (a b c : RegIdx) : Statement (.borr a b c) :=
  wf_of_fields (fieldOk_regField a) (fieldOk_regField b)

theorem bori (a : RegIdx) (q : Word) (c : RegIdx) : Statement (.bori a q c) :=
  wf_of_fields (fieldOk_regField a) rfl

theorem setr (a : RegIdx) (q : Word) (c : RegIdx) : Statement (.setr a q c) :=
  wf_of_fields (fieldOk_regField a) rfl

theorem seti (p q : Word) (c : RegIdx) : Statement (.seti p q c) :=
  wf_of_fields rfl rfl

theorem gtir (p : Word) (b c : RegIdx) : Statement (.gtir p b c) :=
  wf_of_fields rfl (fieldOk_regField b)

theorem gtri (a : RegIdx) (q : Word) (c : RegIdx) : Statement (.gtri a q c) :=
  wf_of_fields (fieldOk_regField a) rfl

theorem gtrr (a b c : RegIdx) : Statement (.gtrr a b c) :=
  wf_of_fields (fieldOk_regField a) (fieldOk_regField b)

theorem eqir (p : Word) (b c : RegIdx) : Statement (.eqir p b c) :=
  wf_of_fields rfl (fieldOk_regField b)

theorem eqri (a : RegIdx) (q : Word) (c : RegIdx) : Statement (.eqri a q c) :=
  wf_of_fields (fieldOk_regField a) rfl

theorem eqrr (a b c : RegIdx) : Statement (.eqrr a b c) :=
  wf_of_fields (fieldOk_regField a) (fieldOk_regField b)

end WellFormedTuple

end Sys2Proof.Laws
end

