-- ==== Sys2Proof/Laws/Decode.lean ====
section
/-! SUPPORT. The fields of an instruction word, and what the check of a tuple answers. -/

namespace Sys2Proof

/-- Each bit of a packed word, field by field (`30_encoding.md` Table R63). -/
theorem getLsbD_packWord (op : BitVec 4) (c : BitVec 3) (a b : Word) (j : Nat) :
    (packWord op c a b).getLsbD j =
      if j < 4 then op.getLsbD j else if j < 7 then c.getLsbD (j - 4) else if j < 8 then false
      else if j < 72 then a.getLsbD (j - 8) else b.getLsbD (j - 72) := by
  have h : (packWord op c a b).getLsbD j =
      BitVec.getLsbD (w := 64 + 64 + 1 + 3 + 4) (b ++ a ++ 0#1 ++ c ++ op) j := rfl
  rw [h]
  simp only [BitVec.getLsbD_append]
  split
  · rfl
  · split
    · simp [show j < 7 by omega]
    · split
      · simp [show ¬j < 7 by omega, show j < 8 by omega]
      · split
        · simp [show ¬j < 7 by omega, show ¬j < 8 by omega, show j < 72 by omega,
            show j - 4 - 3 - 1 = j - 8 by omega]
        · simp [show ¬j < 7 by omega, show ¬j < 8 by omega, show ¬j < 72 by omega,
            show j - 4 - 3 - 1 - 64 = j - 72 by omega]

section Fields

variable (op : BitVec 4) (c : BitVec 3) (a b : Word)

@[simp] theorem op_packWord : InstrWord.op (packWord op c a b) = op := by
  apply BitVec.eq_of_getLsbD_eq
  intro j hj
  simp only [InstrWord.op, BitVec.getLsbD_extractLsb', getLsbD_packWord]
  simp [hj]

@[simp] theorem c_packWord : InstrWord.c (packWord op c a b) = c := by
  apply BitVec.eq_of_getLsbD_eq
  intro j hj
  simp only [InstrWord.c, BitVec.getLsbD_extractLsb', getLsbD_packWord]
  simp [hj, show ¬4 + j < 4 by omega, show 4 + j < 7 by omega]

@[simp] theorem rsv_packWord : InstrWord.rsv (packWord op c a b) = false := by
  rw [InstrWord.rsv, getLsbD_packWord]
  rfl

@[simp] theorem a_packWord : InstrWord.a (packWord op c a b) = a := by
  apply BitVec.eq_of_getLsbD_eq
  intro j hj
  simp only [InstrWord.a, BitVec.getLsbD_extractLsb', getLsbD_packWord]
  simp [hj, show ¬8 + j < 4 by omega, show ¬8 + j < 7 by omega, show 8 + j < 72 by omega]

@[simp] theorem b_packWord : InstrWord.b (packWord op c a b) = b := by
  apply BitVec.eq_of_getLsbD_eq
  intro j hj
  simp only [InstrWord.b, BitVec.getLsbD_extractLsb', getLsbD_packWord]
  simp [hj, show ¬72 + j < 4 by omega, show ¬72 + j < 7 by omega, show ¬72 + j < 8 by omega]

end Fields

/-- A word whose reserved bit is 0 is its four fields packed. -/
theorem packWord_fields {w : InstrWord} (h : InstrWord.rsv w = false) :
    packWord (InstrWord.op w) (InstrWord.c w) (InstrWord.a w) (InstrWord.b w) = w := by
  apply BitVec.eq_of_getLsbD_eq
  intro j hj
  simp only [getLsbD_packWord, InstrWord.op, InstrWord.c, InstrWord.a, InstrWord.b,
    BitVec.getLsbD_extractLsb']
  unfold InstrWord.rsv at h
  split
  · simp [*]
  · split
    · simp [show j - 4 < 3 by omega, show 4 + (j - 4) = j by omega]
    · split
      · rw [show j = 7 by omega, h]
      · split
        · simp [show j - 8 < 64 by omega, show 8 + (j - 8) = j by omega]
        · simp [show j - 72 < 64 by omega, show 72 + (j - 72) = j by omega]

/-- The opcode of an opcode's own number. -/
@[simp] theorem ofNumber_number (op : Opcode) : Opcode.ofNumber op.number = op := by
  cases op <;> rfl

/-- The number of the opcode of a number. -/
@[simp] theorem number_ofNumber (n : BitVec 4) : (Opcode.ofNumber n).number = n := by
  revert n; decide

/-- The index a register field names. -/
@[simp] theorem regOf_val (k : RegIdx) : regOf (k.val : Int) = k := by
  revert k; decide

/-- A tuple is refused for no reason exactly when it is well-formed. -/
theorem reject_eq_none_iff (t : Tuple) : t.reject = none ↔ t.wf = true := by
  unfold Tuple.reject Tuple.wf
  cases isRegIndex t.c <;> cases t.op.modeA.fieldOk t.a <;> cases t.op.modeB.fieldOk t.b <;>
    cases isValue t.a <;> cases isValue t.b <;> simp

/-- The check and assembly of a tuple: accepted exactly when well-formed. -/
theorem toInstr_eq_ok_iff (t : Tuple) (i : Instr) :
    t.toInstr = .ok i ↔ t.wf = true ∧ t.assemble = i := by
  rw [← reject_eq_none_iff]
  unfold Tuple.toInstr
  cases t.reject <;> simp

/-- The decoder: accepted exactly when the reserved bit is 0 and the fields are well-formed. -/
theorem decode_eq_ok_iff (w : InstrWord) (i : Instr) :
    decode w = .ok i ↔
      InstrWord.rsv w = false ∧ (InstrWord.rawTuple w).wf = true ∧
        (InstrWord.rawTuple w).assemble = i := by
  unfold decode
  cases InstrWord.rsv w <;> simp [toInstr_eq_ok_iff]

end Sys2Proof
end

