-- ==== Sys2Proof/Laws/State.lean ====
section
/-! SUPPORT. One lemma per field per update of `State`, so that no proof unfolds a record update. -/

namespace Sys2Proof.Machine

namespace State

variable (s : State) (k : RegIdx) (v : Word)

@[simp] theorem writeReg_x : (s.writeReg k v).x = s.x.set k.val v := rfl
@[simp] theorem writeReg_ipsel : (s.writeReg k v).ipsel = s.ipsel := rfl
@[simp] theorem writeReg_halted : (s.writeReg k v).halted = s.halted := rfl
@[simp] theorem writeReg_program : (s.writeReg k v).program = s.program := rfl
@[simp] theorem writeReg_stepBudget : (s.writeReg k v).stepBudget = s.stepBudget := rfl
@[simp] theorem writeReg_stepCnt : (s.writeReg k v).stepCnt = s.stepCnt := rfl

@[simp] theorem halt_x : s.halt.x = s.x := rfl
@[simp] theorem halt_ipsel : s.halt.ipsel = s.ipsel := rfl
@[simp] theorem halt_halted : s.halt.halted = true := rfl
@[simp] theorem halt_program : s.halt.program = s.program := rfl
@[simp] theorem halt_stepBudget : s.halt.stepBudget = s.stepBudget := rfl
@[simp] theorem halt_stepCnt : s.halt.stepCnt = s.stepCnt := rfl

@[simp] theorem count_x : s.count.x = s.x := rfl
@[simp] theorem count_ipsel : s.count.ipsel = s.ipsel := rfl
@[simp] theorem count_halted : s.count.halted = s.halted := rfl
@[simp] theorem count_program : s.count.program = s.program := rfl
@[simp] theorem count_stepBudget : s.count.stepBudget = s.stepBudget := rfl
@[simp] theorem count_stepCnt :
    s.count.stepCnt = if s.stepBudget.isSome then s.stepCnt + 1 else s.stepCnt := rfl

@[simp] theorem advance_x : s.advance.x = s.x.set s.ipsel.val (addWrap s.pc 1) := rfl
@[simp] theorem advance_ipsel : s.advance.ipsel = s.ipsel := rfl
@[simp] theorem advance_halted : s.advance.halted = s.halted := rfl
@[simp] theorem advance_program : s.advance.program = s.program := rfl
@[simp] theorem advance_stepBudget : s.advance.stepBudget = s.stepBudget := rfl
@[simp] theorem advance_stepCnt :
    s.advance.stepCnt = if s.stepBudget.isSome then s.stepCnt + 1 else s.stepCnt := rfl

end State

end Sys2Proof.Machine
end

