-- ==== Sys2Proof/Laws/Ops.lean ====
section
/-! SUPPORT. For each shared operation, one lemma that says once what it does. -/

namespace Sys2Proof.Machine

/-- Reading after a write: the written register reads as the value, every other as before. -/
theorem readReg_writeReg (s : State) (k j : RegIdx) (v : Word) :
    (s.writeReg k v).readReg j = if j = k then v else s.readReg j := by
  simp only [State.readReg, State.writeReg_x, Vector.getElem_set, Fin.val_inj, eq_comm]

@[simp] theorem readReg_writeReg_self (s : State) (k : RegIdx) (v : Word) :
    (s.writeReg k v).readReg k = v := by simp [readReg_writeReg]

theorem readReg_writeReg_of_ne (s : State) {k j : RegIdx} (v : Word) (h : j ≠ k) :
    (s.writeReg k v).readReg j = s.readReg j := by simp [readReg_writeReg, h]

@[simp] theorem readReg_halt (s : State) (j : RegIdx) : s.halt.readReg j = s.readReg j := rfl

@[simp] theorem readReg_count (s : State) (j : RegIdx) : s.count.readReg j = s.readReg j := rfl

/-- The end of an executing step changes `x[IPSEL]` only. -/
theorem readReg_advance (s : State) (j : RegIdx) :
    s.advance.readReg j = if j = s.ipsel then addWrap s.pc 1 else s.readReg j :=
  readReg_writeReg s s.ipsel j _

@[simp] theorem pc_halt (s : State) : s.halt.pc = s.pc := rfl

@[simp] theorem pc_advance (s : State) : s.advance.pc = addWrap s.pc 1 := by
  simp [State.pc, readReg_advance]

/-- Wrapping addition is addition of 64-bit words. -/
theorem addWrap_eq (p q : Word) : addWrap p q = p + q := by
  simp [addWrap, wrap, BitVec.ofInt_add]

/-- Wrapping multiplication is multiplication of 64-bit words. -/
theorem mulWrap_eq (p q : Word) : mulWrap p q = p * q := by
  simp [mulWrap, wrap, BitVec.ofInt_mul]

/-- `wrap` as a signed number. -/
theorem toInt_wrap (n : Int) : (wrap n).toInt = n.bmod (2 ^ 64) := BitVec.toInt_ofInt n

/-- `wrap` is the identity on the values of a word. -/
@[simp] theorem wrap_toInt (v : Word) : wrap v.toInt = v := BitVec.ofInt_toInt

theorem gtOutcome_eq (p q : Word) : gtOutcome p q = if p.toInt > q.toInt then 1 else 0 := by
  simp [gtOutcome, outcome]

theorem eqOutcome_eq (p q : Word) : eqOutcome p q = if p = q then 1 else 0 := by
  simp [eqOutcome, outcome]

@[simp] theorem val_reg (s : State) (k : RegIdx) : s.val (.reg k) = s.readReg k := rfl

@[simp] theorem val_imm (s : State) (v : Word) : s.val (.imm v) = v := rfl

/-- A read answers an instruction exactly at the addresses `[0, N)`. -/
theorem read_eq_some_iff (m : Memory) (a : Int) (i : Instr) :
    m.read a = some i ↔ 0 ≤ a ∧ m[a.toNat]? = some i := by
  unfold Memory.read
  split <;> simp_all

theorem read_eq_none_iff (m : Memory) (a : Int) :
    m.read a = none ↔ ¬(0 ≤ a ∧ a < m.length) := by
  unfold Memory.read
  split
  · rw [List.getElem?_eq_none_iff]; omega
  · simp; omega

/-- The fetch finds nothing exactly at a halt address. -/
theorem fetch_eq_none_iff (s : State) : s.fetch = none ↔ s.atHalt = true := by
  simp only [State.fetch, read_eq_none_iff, State.atHalt, State.inRange,
    Bool.not_eq_true', Bool.and_eq_false_iff, decide_eq_false_iff_not]
  omega

/-- Placing an instruction keeps the store within `MAX`: the one operation that changes it, for the
host's load. -/
theorem placeAtFetch_wf {s : State} (i : Instr) (h : s.program.wf = true) :
    (s.placeAtFetch i).program.wf = true := by
  unfold State.placeAtFetch
  split
  · simpa [Memory.wf] using h
  · simp [Memory.wf]

theorem loadAtFetch_wf {s : State} (w : InstrWord) (h : s.program.wf = true) :
    (s.loadAtFetch w).program.wf = true := by
  unfold State.loadAtFetch
  split
  · exact placeAtFetch_wf _ h
  · exact h

/-- No operation of a step writes the store, so each keeps it well-formed. -/
theorem writeReg_wf {s : State} (k : RegIdx) (v : Word) (h : s.program.wf = true) :
    (s.writeReg k v).program.wf = true := h

theorem halt_wf {s : State} (h : s.program.wf = true) : s.halt.program.wf = true := h

theorem advance_wf {s : State} (h : s.program.wf = true) : s.advance.program.wf = true := h

end Sys2Proof.Machine
end

