-- ==== Sys2Proof/Laws/Run.lean ====
section
/-! SUPPORT. Runs of the core, one step at a time. -/

namespace Sys2Proof.Machine

theorem reaches_zero {s t : State} : Reaches 0 s t ↔ t = s := by
  constructor
  · intro h
    injection h with h
    exact h.symm
  · rintro rfl
    rfl

/-- A run of `n + 1` steps is a step and a run of `n`. -/
theorem reaches_succ {n : Nat} {s t : State} :
    Reaches (n + 1) s t ↔ ∃ u, step s = .next u ∧ Reaches n u t := by
  have h : Sys2Proof.core.step s = step s := rfl
  simp only [Reaches, Host.Core.run, h]
  cases hs : step s with
  | next u => simp
  | fault f => cases f
  | refused r => simp

end Sys2Proof.Machine
end

