-- ==== Sys2Proof/Laws/Step.lean ====
section
/-! SUPPORT. What an instruction and a step can do, said once. -/

namespace Sys2Proof.Machine

/-- The value an instruction computes from the registers of a state. -/
def resultOf (i : Instr) (s : State) : Word :=
  match i with
  | .addr a b _ => addWrap (s.readReg a) (s.readReg b)
  | .addi a b _ => addWrap (s.readReg a) b
  | .mulr a b _ => mulWrap (s.readReg a) (s.readReg b)
  | .muli a b _ => mulWrap (s.readReg a) b
  | .banr a b _ => bitAnd (s.readReg a) (s.readReg b)
  | .bani a b _ => bitAnd (s.readReg a) b
  | .borr a b _ => bitOr (s.readReg a) (s.readReg b)
  | .bori a b _ => bitOr (s.readReg a) b
  | .setr a _ _ => s.readReg a
  | .seti a _ _ => a
  | .gtir a b _ => gtOutcome a (s.readReg b)
  | .gtri a b _ => gtOutcome (s.readReg a) b
  | .gtrr a b _ => gtOutcome (s.readReg a) (s.readReg b)
  | .eqir a b _ => eqOutcome a (s.readReg b)
  | .eqri a b _ => eqOutcome (s.readReg a) b
  | .eqrr a b _ => eqOutcome (s.readReg a) (s.readReg b)

/-- Every instruction answers a next state: its result written to its destination. -/
theorem exec_eq (i : Instr) (s : State) : exec i s = .next (s.writeReg i.dest (resultOf i s)) := by
  cases i <;> rfl

/-- A step that executes `i` ends in the state after the write and the increment. -/
theorem step_of_fetch {s : State} {i : Instr} (hr : s.halted = false)
    (hf : s.fetch = some i) :
    step s = .next (s.writeReg i.dest (resultOf i s)).advance := by
  simp [step, hr, hf, exec_eq]

/-- What a step that answers a next state can be: the step in the halted state, the halt step, or an
executing step. -/
theorem step_cases {s t : State} (h : step s = .next t) :
    (s.halted = true ∧ t = s) ∨
    (s.halted = false ∧ s.fetch = none ∧ t = s.halt) ∨
    (∃ i, s.halted = false ∧ s.fetch = some i ∧
      t = (s.writeReg i.dest (resultOf i s)).advance) := by
  cases hh : s.halted with
  | true =>
    simp [step, hh] at h
    exact .inl ⟨rfl, h.symm⟩
  | false =>
    right
    match hf : s.fetch with
    | none =>
      simp [step, hh, hf] at h
      exact .inl ⟨rfl, rfl, h.symm⟩
    | some i =>
      rw [step_of_fetch hh hf] at h
      exact .inr ⟨i, rfl, rfl, by simpa using h.symm⟩

end Sys2Proof.Machine
end

