-- ==== Sys2Proof/Machine/Text.lean ====
section
/-! DEFINITION. The text form of a program, `30_encoding.md` R70. Parsing is outside the core
(`00_scope.md` R5 (e)); it is written here so that the programs of the spec can be read (log 19). -/

namespace Sys2Proof.Machine

/-- Why a text is no program text; the reasons are the model's (log 19). -/
inductive TextError where
  /-- the first line is not `#ip <n>` with a decimal number -/
  | badDirective
  /-- an instruction line is not a name and three decimal numbers -/
  | badLine
  deriving DecidableEq, Repr

/-- The fields of a line, separated by one or more spaces. DESIGN CHOICE where R70 is silent: spaces
before the first field and after the last are dropped, and no other character separates (log 19);
safe for the core. -/
def fieldsOf (cs : List Char) : List (List Char) :=
  (cs.foldr (fun c acc =>
    if c = ' ' then [] :: acc
    else
      match acc with
      | [] => [[c]]
      | f :: fs => (c :: f) :: fs) [[]]).filter fun f => !f.isEmpty

/-- A non-empty run of decimal digits. DESIGN CHOICE: leading zeros are accepted (log 19); safe for
the core. -/
def decimal? (cs : List Char) : Option Nat :=
  if !cs.isEmpty && cs.all Char.isDigit then
    some (cs.foldl (fun n c => 10 * n + (c.toNat - '0'.toNat)) 0)
  else none

/-- A decimal number with an optional leading `-` and no `+`. DESIGN CHOICE where R70 is silent: `-0`
(and `-00`) is accepted as 0 in an instruction field (log 19); safe for the core. -/
def number? : List Char → Option Int
  | '-' :: cs => (decimal? cs).map fun n => -(n : Int)
  | cs => (decimal? cs).map fun n => (n : Int)

/-- One instruction line: mnemonic and three fields, all three always present. -/
def parseLine (line : String) : Except TextError NamedTuple :=
  match fieldsOf line.toList with
  | [m, a, b, c] =>
    match number? a, number? b, number? c with
    | some a, some b, some c => .ok ⟨String.ofList m, a, b, c⟩
    | _, _, _ => .error .badLine
  | _ => .error .badLine

/-- The instruction lines, in order; line `k` is index `k`. -/
def parseLines : List String → Except TextError (List NamedTuple)
  | [] => .ok []
  | l :: ls =>
    match parseLine l, parseLines ls with
    | .ok t, .ok ts => .ok (t :: ts)
    | .error e, _ => .error e
    | _, .error e => .error e

/-- A program text: the directive `#ip <n>`, then one instruction a line. The answer is the input of
`construct`, which makes the checks of `30_encoding.md` R73. DESIGN CHOICE where R70 is silent: a
number with a `-` in the directive (`#ip -1`, and `#ip -0` too) is `badDirective` here, while a natural number above 5
(`#ip 6`) is left to `construct`, which answers `ipselOutOfRange`; an empty line is `badLine`
(log 19); safe for the core, since each is refused before execution. -/
def parseProgram : List String → Except TextError (List NamedTuple × Int)
  | [] => .error .badDirective
  | d :: ls =>
    match fieldsOf d.toList with
    | [h, n] =>
      match decide (h = "#ip".toList), decimal? n, parseLines ls with
      | true, some k, .ok ts => .ok (ts, (k : Int))
      | true, some _, .error e => .error e
      | _, _, _ => .error .badDirective
    | _ => .error .badDirective

/-- The canonical disassembly of a tuple: `<mnemonic> <a> <b> <c>`, signed decimal. -/
def disassemble (t : Tuple) : String :=
  t.op.mnemonic ++ " " ++ toString t.a ++ " " ++ toString t.b ++ " " ++ toString t.c

end Sys2Proof.Machine
end

