-- ==== Sys2Proof/Tests/Slice0.lean ====
section
/-! SUPPORT. The model's own tests. Expected values are printed in `95_test_vectors.md` unless a comment
says otherwise; the words are those printed there. -/

namespace Sys2Proof.Tests

open Sys2Proof.Machine

/-! ### Decoding: one printed word of every opcode (`95_test_vectors.md` part 2) -/

theorem test_decode_addr : decode 0x0000000000000001000000000000000020#136 = .ok (.addr 0 1 2) := by decide
theorem test_decode_addi : decode 0xFFFFFFFFFFFFFFFF000000000000000521#136 = .ok (.addi 5 (-1) 2) := by decide
theorem test_encode_addi : encode (.addi 5 (-1) 2) = 0xFFFFFFFFFFFFFFFF000000000000000521#136 := by decide
theorem test_decode_mulr : decode 0x0000000000000004000000000000000232#136 = .ok (.mulr 2 4 3) := by decide
theorem test_decode_muli : decode 0xFFFFFFFFFFFFFFFC000000000000000123#136 = .ok (.muli 1 (-4) 2) := by decide
theorem test_decode_banr : decode 0x0000000000000003000000000000000024#136 = .ok (.banr 0 3 2) := by decide
theorem test_decode_bani : decode 0x0000000000FFFFFF000000000000000425#136 = .ok (.bani 4 16777215 2) := by decide
theorem test_decode_borr : decode 0x0000000000000005000000000000000426#136 = .ok (.borr 4 5 2) := by decide
theorem test_decode_bori : decode 0x7FFFFFFFFFFFFFFF000000000000000527#136 = .ok (.bori 5 9223372036854775807 2) := by decide
theorem test_decode_setr : decode 0xFFFFFFFFFFFFFFF9000000000000000408#136 = .ok (.setr 4 (-7) 0) := by decide
theorem test_encode_setr : encode (.setr 4 (-7) 0) = 0xFFFFFFFFFFFFFFF9000000000000000408#136 := by decide
theorem test_decode_seti : decode 0x000000000000004DFFFFFFFFFFFFFFFF29#136 = .ok (.seti (-1) 77 2) := by decide
theorem test_encode_seti : encode (.seti (-1) 77 2) = 0x000000000000004DFFFFFFFFFFFFFFFF29#136 := by decide
theorem test_decode_gtir : decode 0x00000000000000047FFFFFFFFFFFFFFF2A#136 = .ok (.gtir 9223372036854775807 4 2) := by decide
theorem test_encode_gtir : encode (.gtir 9223372036854775807 4 2) = 0x00000000000000047FFFFFFFFFFFFFFF2A#136 := by decide
theorem test_decode_gtri : decode 0x800000000000000000000000000000052B#136 = .ok (.gtri 5 (-9223372036854775808) 2) := by decide
theorem test_decode_gtrr : decode 0x000000000000000400000000000000052C#136 = .ok (.gtrr 5 4 2) := by decide
theorem test_decode_eqir : decode 0x0000000000000001FFFFFFFFFFFFFFFD2D#136 = .ok (.eqir (-3) 1 2) := by decide
theorem test_decode_eqri : decode 0x7FFFFFFFFFFFFFFF00000000000000044E#136 = .ok (.eqri 4 9223372036854775807 4) := by decide
theorem test_decode_eqrr : decode 0x000000000000000500000000000000042F#136 = .ok (.eqrr 4 5 2) := by decide

/-! ### Words the decoder refuses, and neighbours it accepts (`95_test_vectors.md` part 3) -/

theorem test_refuse_reserved : decode 0x0000000000000000000000000000000080#136 = .error .reservedBitSet := by decide
theorem test_refuse_destination_six : decode 0x0000000000000000000000000000000060#136 = .error .destinationOutOfRange := by decide
theorem test_refuse_destination_seven : decode 0x0000000000000000000000000000000070#136 = .error .destinationOutOfRange := by decide
theorem test_refuse_operand_a : decode 0x0000000000000000000000000000000600#136 = .error .operandOutOfRegisterRange := by decide
theorem test_refuse_operand_b : decode 0x0000000000000006000000000000000000#136 = .error .operandOutOfRegisterRange := by decide
theorem test_refuse_negative_operand : decode 0x0000000000000000FFFFFFFFFFFFFFFF08#136 = .error .operandOutOfRegisterRange := by decide
theorem test_refuse_gtir_register : decode 0x000000000000000700000000000000000A#136 = .error .operandOutOfRegisterRange := by decide
theorem test_accept_ignored_b : decode 0x0000000000000006000000000000000008#136 = .ok (.setr 0 6 0) := by decide
theorem test_accept_zero_word : decode 0#136 = .ok (.addr 0 0 0) := by decide
/-- The order of `30_encoding.md` R66: the reserved bit is reported before the destination, the
destination before an operand. -/
theorem test_refuse_order : decode 0x00000000000000060000000000000006F0#136 = .error .reservedBitSet ∧
    decode 0x0000000000000006000000000000000670#136 = .error .destinationOutOfRange := by decide
theorem test_table_word : decodeTableWord 8 0x29 = some (.seti 0 0 2) := by decide
theorem test_table_word_refused : decodeTableWord 8 0xE0 = none := by decide

/-! ### Well-formedness: an ill-formed tuple for each check of `30_encoding.md` R62 -/

theorem test_wf_accepts : (Tuple.mk .addi 1 6 2).wf = true := by decide
theorem test_wf_destination_high : (Tuple.mk .addi 1 2 6).wf = false := by decide
theorem test_wf_destination_low : (Tuple.mk .seti 0 0 (-1)).wf = false := by decide
theorem test_wf_register_a : (Tuple.mk .addi 6 2 1).wf = false := by decide
theorem test_wf_register_b : (Tuple.mk .gtir 7 7 0).wf = false := by decide
theorem test_wf_value_a : (Tuple.mk .seti 9223372036854775808 0 0).wf = false := by decide
theorem test_wf_value_b : (Tuple.mk .setr 0 (-9223372036854775809) 0).wf = false := by decide
theorem test_wf_program_ipsel : wfProgram [] 6 = false ∧ wfProgram [] 5 = true := by decide

/-! ### Construction (`95_test_vectors.md` part 3) -/

theorem test_construct_ipsel : construct [] 6 = .error .ipselOutOfRange := by decide
theorem test_construct_name : construct [⟨"subr", 1, 2, 3⟩] 0 = .error .unknownOpcodeName := by decide
theorem test_construct_destination : construct [⟨"addi", 1, 2, 6⟩] 0 = .error .destinationOutOfRange := by decide
theorem test_construct_operand : construct [⟨"addi", 6, 2, 1⟩] 0 = .error .operandOutOfRegisterRange := by decide
theorem test_construct_accepts : construct [⟨"addi", 1, 6, 2⟩] 5 =
    .ok ⟨[.addi 1 6 2], 5, rfl⟩ := by decide
theorem test_construct_empty : construct [] 5 = .ok ⟨[], 5, rfl⟩ := by decide
theorem test_construct_words : constructWords [0x529#136] 4 = .ok ⟨[.seti 5 0 2], 4, rfl⟩ := by decide
theorem test_construct_words_reserved : constructWords [0x80#136] 0 = .error .reservedBitSet := by decide

/-! ### Instructions (`95_test_vectors.md` part 2) -/

/-- The registers before each instruction of part 2. -/
def sample : State := { State.reset with x := #v[7, -3, 0, 12, 9223372036854775807, -9223372036854775808] }

/-- The instruction completes on the sample registers with the signed value `v` in `x[k]`. -/
def gives (i : Instr) (k : RegIdx) (v : Int) : Bool :=
  match exec i sample with
  | .next t => decide ((t.readReg k).toInt = v)
  | _ => false

theorem test_addr_wraps : gives (.addr 4 4 2) 2 (-2) = true := by decide
theorem test_addr_doubles_in_place : gives (.addr 0 0 0) 0 14 = true := by decide
theorem test_addi_wraps_below : gives (.addi 5 (-1) 2) 2 9223372036854775807 = true := by decide
theorem test_addi_same_register : gives (.addi 1 3 1) 1 0 = true := by decide
theorem test_mulr_wraps : gives (.mulr 5 1 2) 2 (-9223372036854775808) = true := by decide
theorem test_mulr_negative : gives (.mulr 0 1 2) 2 (-21) = true := by decide
theorem test_muli_min_by_minus_one : gives (.muli 5 (-1) 2) 2 (-9223372036854775808) = true := by decide
theorem test_muli_negative_immediate : gives (.muli 1 (-4) 2) 2 12 = true := by decide
theorem test_banr_sign_bit : gives (.banr 1 5 2) 2 (-9223372036854775808) = true := by decide
theorem test_banr_negative_operand : gives (.banr 1 0 2) 2 5 = true := by decide
theorem test_bani_low_byte : gives (.bani 1 255 2) 2 253 = true := by decide
theorem test_bani_all_ones : gives (.bani 1 (-1) 2) 2 (-3) = true := by decide
theorem test_borr_max_min : gives (.borr 4 5 2) 2 (-1) = true := by decide
theorem test_borr_bits : gives (.borr 0 3 2) 2 15 = true := by decide
theorem test_bori_sets_bit : gives (.bori 2 65536 2) 2 65536 = true := by decide
theorem test_bori_negative : gives (.bori 1 2 2) 2 (-1) = true := by decide
theorem test_setr_ignores_b : gives (.setr 1 99 2) 2 (-3) = true := by decide
theorem test_setr_other_destination : gives (.setr 4 (-7) 0) 0 9223372036854775807 = true := by decide
theorem test_seti_min : gives (.seti (-9223372036854775808) 0 2) 2 (-9223372036854775808) = true := by decide
theorem test_seti_above_five : gives (.seti 9 9 0) 0 9 = true := by decide
theorem test_gtir_negative_order : gives (.gtir (-4) 1 2) 2 0 = true := by decide
theorem test_gtir_signed : gives (.gtir 0 5 2) 2 1 = true := by decide
theorem test_gtri_signed : gives (.gtri 4 (-1) 2) 2 1 = true := by decide
theorem test_gtri_min_not_above_min : gives (.gtri 5 (-9223372036854775808) 2) 2 0 = true := by decide
theorem test_gtrr_signed : gives (.gtrr 4 5 2) 2 1 = true := by decide
theorem test_gtrr_equal : gives (.gtrr 0 0 2) 2 0 = true := by decide
theorem test_eqir_old_destination : gives (.eqir 0 2 2) 2 1 = true := by decide
theorem test_eqir_differs : gives (.eqir 8 0 2) 2 0 = true := by decide
theorem test_eqri_same_register : gives (.eqri 4 9223372036854775807 4) 4 1 = true := by decide
theorem test_eqri_sign : gives (.eqri 0 (-7) 2) 2 0 = true := by decide
theorem test_eqrr_same : gives (.eqrr 2 2 2) 2 1 = true := by decide
theorem test_eqrr_differs : gives (.eqrr 4 5 2) 2 0 = true := by decide

/-! ### One step (`95_test_vectors.md` S2, S3 and part 4) -/

/-- A launched state of the given program. -/
def at' (code : Memory) (ip : RegIdx) (x : RegFile) (h : code.wf = true := by decide) : State :=
  launch ⟨code, ip, h⟩ x none

/-- One step gives the registers `x` and the bit `h`. -/
def stepGives (s : State) (x : RegFile) (h : Bool) : Bool :=
  match step s with
  | .next t => decide (t.x = x) && (t.halted == h)
  | _ => false

/-- Six zero registers. -/
def zeros : RegFile := #v[0, 0, 0, 0, 0, 0]

/-- `0 seti 1 0 0; 1 seti 2 0 1` -/
def twoSets : Memory := [.seti 1 0 0, .seti 2 0 1]

theorem test_step_jump : stepGives (at' [.seti 5 0 3] 3 #v[0, 0, 0, 0, 0, 0]) #v[0, 0, 0, 6, 0, 0] false = true := by decide
theorem test_step_executes : stepGives (at' twoSets 4 #v[0, 0, 0, 0, 1, 0]) #v[0, 2, 0, 0, 2, 0] false = true := by decide
theorem test_step_halts : stepGives (at' twoSets 4 #v[0, 2, 0, 0, 2, 0]) #v[0, 2, 0, 0, 2, 0] true = true := by decide
theorem test_step_halts_negative : stepGives (at' twoSets 4 #v[0, 0, 0, 0, -1, 0]) #v[0, 0, 0, 0, -1, 0] true = true := by decide
theorem test_step_halted : stepGives (at' twoSets 4 #v[0, 0, 0, 0, 0, 0]).halt #v[0, 0, 0, 0, 0, 0] true = true := by decide
theorem test_step_empty : stepGives (at' [] 0 #v[0, 0, 0, 0, 0, 0]) #v[0, 0, 0, 0, 0, 0] true = true := by decide
theorem test_step_increment_wraps : stepGives (at' [.seti 9223372036854775807 0 0] 0 #v[0, 0, 0, 0, 0, 0]) #v[-9223372036854775808, 0, 0, 0, 0, 0] false = true := by decide
theorem test_step_self_loop : stepGives (at' [.addi 0 (-1) 0] 0 #v[0, 0, 0, 0, 0, 0]) #v[0, 0, 0, 0, 0, 0] false = true := by decide
theorem test_step_reads_own_address : stepGives (at' [.seti 0 0 1, .setr 2 0 3] 2 #v[0, 0, 1, 0, 0, 0]) #v[0, 0, 2, 1, 0, 0] false = true := by decide
theorem test_step_own_address_twice : stepGives (at' [.seti 0 0 1, .setr 2 0 3, .addr 2 2 2] 2 #v[0, 0, 2, 0, 0, 0]) #v[0, 0, 5, 0, 0, 0] false = true := by decide
/-- The host's first question of every row: the first instruction after reset. -/
theorem test_fetch_word : stepGives (State.reset.withFetchWord 8 0x29) #v[1, 0, 0, 0, 0, 0] false = true := by decide
/-- A malformed word is refused: nothing is loaded (log 4). -/
theorem test_fetch_word_refused : (at' twoSets 4 zeros).withFetchWord 136 0x80 = at' twoSets 4 zeros := by decide
/-- The same printed row at the tuple level, and one with an overflow (P5). -/
theorem test_tuple_step :
    tupleStep ⟨#v[0, 0, 0, 0, 1, 0], 4, false, [⟨.seti, 1, 0, 0⟩, ⟨.seti, 2, 0, 1⟩], none, 0⟩ =
      ⟨#v[0, 2, 0, 0, 2, 0], 4, false, [⟨.seti, 1, 0, 0⟩, ⟨.seti, 2, 0, 1⟩], none, 0⟩ ∧
    (tupleStep ⟨#v[0, 0, 0, 0, 0, 0], 0, false, [⟨.seti, 9223372036854775807, 0, 0⟩], none, 0⟩).x =
      #v[-9223372036854775808, 0, 0, 0, 0, 0] := by decide

/-! ### Loops, detector and text (`95_test_vectors.md` S3, S4, the step budget, P5) -/

/-- `0 seti 0 0 1`, halting after one executed instruction (S3). -/
def oneSet (budget : Option Nat) : State := launch ⟨[.seti 0 0 1], 0, rfl⟩ #v[0, 0, 0, 0, 0, 0] budget

/-- The end of a loop is `e`. -/
def ends {α : Type} [DecidableEq α] (r : Host.Outcome α Fault Refusal) (e : α) : Bool :=
  match r with
  | .next e' => decide (e' = e)
  | _ => false

theorem test_run_halts : ends (runToHalt 2 (oneSet none)) (.halted #v[1, 0, 0, 0, 0, 0]) = true := by decide
theorem test_budget_not_exceeded : ends (runToHalt 2 (oneSet (some 1))) (.halted #v[1, 0, 0, 0, 0, 0]) = true := by decide
theorem test_budget_exceeded : ends (runToHalt 2 (oneSet (some 0))) (.budgetExceeded #v[0, 0, 0, 0, 0, 0]) = true := by decide
/-- S4: `5, 3, 8, 3`. -/
theorem test_detector : (Detector.fresh.observe 5).2 = .firstSeen 5 ∧
    ((([5, 3, 8].foldl (fun d v => (d.observe v).1) Detector.fresh)).observe 3).2 = .terminal 8 := by decide
theorem test_text : parseProgram ["#ip 0", "seti 9223372036854775807 0 0"] =
    .ok ([⟨"seti", 9223372036854775807, 0, 0⟩], 0) := by decide
theorem test_disassemble : disassemble ⟨.addi, 5, -1, 2⟩ = "addi 5 -1 2" := by decide

/-! ### Witnesses: a concrete state and operands that meet the hypotheses of each statement that has
some. The obligation's name follows `witness_`; a witness that serves several statements names
them in its docstring. -/

/-- A one-instruction state with the instruction pointer at index 0. -/
def one (i : Instr) (x : RegFile) : State := at' [i] 0 x rfl

/-- Also for `MaskedWordIsOpcodeNumber`. -/
theorem test_witness_EncodeOfDecode : decode (encode (.seti (-1) 77 2)) = .ok (.seti (-1) 77 2) := by decide
theorem test_witness_DecodeRefusesExactlyMalformedWords :
    (0x80#136).toNat / 128 % 2 = 1 ∧
    ((0x60#136).toNat / 128 % 2 = 0 ∧ 6 ≤ (0x60#136).toNat / 16 % 8) ∧
    ((0x600#136).toNat / 128 % 2 = 0 ∧ (0x600#136).toNat / 16 % 8 < 6 ∧ (Opcode.ofNumber 0).modeA = .reg ∧
      ¬((BitVec.ofNat 64 ((0x600#136).toNat / 2 ^ 8 % 2 ^ 64)).toInt ≤ 5)) ∧
    ((0x50#136).toNat / 128 % 2 = 0 ∧ (0x50#136).toNat / 16 % 8 < 6) := by decide
theorem test_witness_TupleAssemblesIffWellFormed : (Tuple.mk .addi 5 (-1) 2).toInstr = .ok (.addi 5 (-1) 2) := by decide
/-- For `ConstructAcceptsExactlyWellFormed`, `ProgramStoreIsImmutable`, `IpselIsFixedAndUnread` and
`LaunchedRunNeverStopsAbnormally`. -/
theorem test_witness_construct_accepts : construct [⟨"addi", 1, 6, 2⟩] 0 =
    .ok ⟨[.addi 1 6 2], 0, rfl⟩ := by decide
/-- For `ConstructWordsAcceptsExactlyLegalWords`, `RunExecutesConstructedWords` and
`LaunchedRunNeverStopsAbnormally`: the words of `twoSets`, at both ends of the range of the index. -/
theorem test_witness_constructWords_accepts :
    constructWords (twoSets.map encode) 0 = .ok ⟨twoSets, 0, rfl⟩ ∧
    constructWords (twoSets.map encode) 5 = .ok ⟨twoSets, 5, rfl⟩ := by decide
theorem test_witness_FetchDecodesWordAtAddress : Memory.readWord [.seti 5 0 2] 0 = some 0x529#136 ∧
    Memory.readWord [.seti 5 0 2] 1 = none := by decide
/-- The last word of a constructed program, reached by one step. -/
theorem test_witness_RunExecutesConstructedWords :
    Reaches 1 (at' twoSets 5 zeros) (at' twoSets 5 #v[1, 0, 0, 0, 0, 1]) ∧
    (at' twoSets 5 #v[1, 0, 0, 0, 0, 1]).pc.toInt = 1 ∧
    (twoSets.map encode)[1]? = some (encode (.seti 2 0 1)) := ⟨rfl, by decide, rfl⟩
theorem test_witness_IpselIsFixedAndUnread : assembleAll [⟨"addi", 1, 6, 2⟩] =
    .ok [.addi 1 6 2] ∧ (5 : Int) < 6 ∧ (-1 : Int) < 0 := by decide
theorem test_witness_BitwiseSignedBounds : 0 ≤ (7 : Word).toInt ∧ 0 ≤ (12 : Word).toInt := by decide
theorem test_witness_ComparisonOutcomeIsZeroOrOne :
    (Instr.gtir 8 0 2).opcode ∈ [Opcode.gtir, .gtri, .gtrr, .eqir, .eqri, .eqrr] ∧
    Executes (one (.addr 0 1 0) #v[0, 1, 0, 0, 0, 0]) (.addr 0 1 0) ∧
    (one (.addr 0 1 0) #v[0, 1, 0, 0, 0, 0]).readReg 1 = 1 ∧
    Executes (one (.addr 0 1 0) zeros) (.addr 0 1 0) ∧ (one (.addr 0 1 0) zeros).readReg 1 = 0 ∧
    Executes (one (.addr 1 0 0) #v[0, 1, 0, 0, 0, 0]) (.addr 1 0 0) :=
  ⟨by decide, ⟨rfl, by decide, by decide, rfl⟩, rfl,
    ⟨rfl, by decide, by decide, rfl⟩, rfl, ⟨rfl, by decide, by decide, rfl⟩⟩
theorem test_witness_ResultDependsOnNamedOperandsOnly :
    ∀ r ∈ readsOf (.addi 0 5 2), (one (.addi 0 5 2) zeros).readReg r = (at' [] 1 #v[0, 1, 2, 3, 4, 5]).readReg r := by decide
/-- For `StepRunsDecodedInstruction`, `IncrementFollowsWriteAlways`, `SequentialExecution` and
`ExecutingStepFrame`. -/
theorem test_witness_Executes : Executes (one (.addi 1 6 2) zeros) (.addi 1 6 2) ∧
    (Instr.addi 1 6 2).dest ≠ (one (.addi 1 6 2) zeros).ipsel ∧
    ((one (.addi 1 6 2) zeros).program.length : Int) ≤ Config.maxVal :=
  ⟨⟨rfl, by decide, by decide, rfl⟩, by decide, by decide⟩
theorem test_witness_HaltStepSetsOnlyHalted :
    (at' twoSets 0 #v[-1, 0, 0, 0, 0, 0]).pc.toInt < 0 ∧
    ((at' twoSets 0 #v[2, 0, 0, 0, 0, 0]).program.length : Int) ≤ (at' twoSets 0 #v[2, 0, 0, 0, 0, 0]).pc.toInt ∧
    (at' twoSets 0 #v[2, 0, 0, 0, 0, 0]).halted = false := by decide
theorem test_witness_WriteToIpselRegisterIsJump :
    Executes (one (.seti 5 0 0) zeros) (.seti 5 0 0) ∧ (Instr.seti 5 0 0).dest = (one (.seti 5 0 0) zeros).ipsel ∧
    (one (.seti 5 0 0) zeros).pc = 0 :=
  ⟨⟨rfl, by decide, by decide, rfl⟩, rfl, rfl⟩
/-- A jump whose target is in range, for the clause of the next fetch. -/
theorem test_witness_jump_in_range : Executes (one (.addi 0 (-1) 0) zeros) (.addi 0 (-1) 0) ∧
    stepGives (one (.addi 0 (-1) 0) zeros) zeros false = true :=
  ⟨⟨rfl, by decide, by decide, rfl⟩, by decide⟩
/-- For `ProgramStoreIsImmutable`, `IpselIsFixedAndUnread`, `RegistersChangeOnlyInExecutingStep`,
`HaltedIsSetOnlyByHaltStep` and `InvariantKeptByStep`: the step answers a next state. -/
theorem test_witness_step_next : stepGives (one (.addi 1 6 2) zeros) #v[1, 0, 6, 0, 0, 0] false = true := by decide
theorem test_witness_ControlTransferIdioms :
    Executes (one (.seti (6 - 1) 0 0) zeros) (.seti (6 - 1) 0 0) ∧ Executes (one (.addi 0 4 0) zeros) (.addi 0 4 0) ∧
    Executes (one (.addi 0 (-1) 0) zeros) (.addi 0 (-1) 0) ∧ Executes (one (.addr 0 1 0) zeros) (.addr 0 1 0) ∧
    Executes (one (.addr 1 0 0) zeros) (.addr 1 0 0) ∧ Executes (one (.setr 1 0 0) zeros) (.setr 1 0 0) ∧
    Executes (one (.setr 0 0 1) zeros) (.setr 0 0 1) ∧ Executes (one (.addi 0 1 1) zeros) (.addi 0 1 1) := by
  refine ⟨?_, ?_, ?_, ?_, ?_, ?_, ?_, ?_⟩ <;> exact ⟨rfl, by decide, by decide, rfl⟩
theorem test_witness_PlacedWordExecutesNext : decodeTableWord 136 0x529 = some (.seti 5 0 2) := by decide
theorem test_witness_InvariantKeptByStep : (one (.addi 1 6 2) zeros).Inv ∧ State.reset.halt.Inv :=
  ⟨⟨by decide, by decide, by decide⟩, ⟨by decide, by decide, by decide⟩⟩
/-- Also for `HaltedStepIsIdentity` and `FetchSeesSameProgramForWholeRun`. -/
theorem test_witness_HaltIsFinal : State.reset.halt.halted = true ∧ Reaches 1 State.reset.halt State.reset.halt :=
  ⟨rfl, rfl⟩
theorem test_witness_RunThatReturnsNeverHalts : (one (.addi 0 (-1) 0) zeros).halted = false ∧
    Reaches (0 + 1) (one (.addi 0 (-1) 0) zeros) (one (.addi 0 (-1) 0) zeros) :=
  ⟨rfl, rfl⟩
/-- Both sides of the equivalence, with the bound on turns at its least. -/
theorem test_witness_BudgetExceededAfterExactlyBudget :
    ends (runToHalt 2 (launch ⟨[.addi 0 (-1) 0], 0, rfl⟩ zeros (some 1))) (.budgetExceeded zeros) = true ∧
    Reaches 1 (launch ⟨[.addi 0 (-1) 0], 0, rfl⟩ zeros (some 1))
      { launch ⟨[.addi 0 (-1) 0], 0, rfl⟩ zeros (some 1) with stepCnt := 1 } := ⟨by decide, rfl⟩
/-- A halt address found with the budget just used up (`test_budget_not_exceeded` is the answer). -/
theorem test_witness_BudgetedRunHaltsWithinBudget :
    Reaches 1 (oneSet (some 1)) { oneSet (some 1) with x := #v[1, 0, 0, 0, 0, 0], stepCnt := 1 } ∧
    State.atHalt { oneSet (some 1) with x := #v[1, 0, 0, 0, 0, 0], stepCnt := 1 } = true := ⟨rfl, by decide⟩
/-- Counted while running and after the halt step, and not counted without a budget. -/
theorem test_witness_StepCountCountsExecutingSteps :
    Reaches 1 (oneSet (some 5)) { oneSet (some 5) with x := #v[1, 0, 0, 0, 0, 0], stepCnt := 1 } ∧
    Reaches 2 (oneSet (some 5))
      { oneSet (some 5) with x := #v[1, 0, 0, 0, 0, 0], stepCnt := 1, halted := true } ∧
    Reaches 1 (oneSet none) { oneSet none with x := #v[1, 0, 0, 0, 0, 0] } :=
  ⟨rfl, rfl, rfl⟩
/-- Both sides of the equivalence are met by `test_run_halts`. -/
theorem test_witness_RunToHaltAnswersFinalRegisters : (oneSet none).stepBudget = none := rfl
theorem test_witness_PassiveObserverLoopIsRunToHalt :
    ∀ (o : Unit) (r : RegFile), ((fun o _ => (o, Request.goOn) : Unit → RegFile → Unit × Request) o r).2 = .goOn :=
  fun _ _ => rfl
theorem test_witness_ObserverStopIsAStateOfTheRun :
    ends (runWithObserver (fun (o : Nat) _ => (o + 1, Request.stop)) 2 0 (oneSet none))
      (.stopped #v[1, 0, 0, 0, 0, 0], 1) = true := by decide
theorem test_witness_DetectorReportsLastNovelValue : ([5, 3, 8] : List Int).Nodup ∧ (3 : Int) ∈ [5, 3, 8] := by decide

end Sys2Proof.Tests
end

