-- ==== Sys2Proof/Proofs/State.lean ====
section
/-! PROOFS. The register file and the program store, `10_state.md` rules R20 and R29. -/

namespace Sys2Proof.Machine

/-! ### The register file -/

/-- The signed value of every word lies in `[MIN, MAX]` (`00_scope.md` Table R9). -/
theorem toInt_bounds (v : Word) : Config.minVal ≤ v.toInt ∧ v.toInt ≤ Config.maxVal := by
  simpa only [isValue, Bool.and_eq_true, decide_eq_true_eq] using Laws.isValue_toInt v

/-- The frame of a register write. -/
theorem sameExcept_writeReg (s : State) (k : RegIdx) (v : Word) :
    SameExcept [k] s (s.writeReg k v) where
  regs r hr := readReg_writeReg_of_ne s v (by simpa using hr)
  ipsel := State.writeReg_ipsel s k v
  halted := State.writeReg_halted s k v
  program := State.writeReg_program s k v
  stepBudget := State.writeReg_stepBudget s k v
  stepCnt := State.writeReg_stepCnt s k v

/-- The program counter is the bound register, with no state of its own (`10_state.md` R24). -/
theorem pc_eq_readReg_ipsel (s : State) : s.pc = s.readReg s.ipsel := rfl

/-- Settles O12: reading after a write, the frame of a write, and the range of a word. -/
theorem registerFileReadsBackWrites : Obligations.RegisterFileReadsBackWrites := by
  intro s k v
  obtain ⟨hmin, hmax⟩ := toInt_bounds (s.readReg k)
  exact ⟨readReg_writeReg_self s k v, sameExcept_writeReg s k v, hmin, hmax,
    pc_eq_readReg_ipsel s⟩

/-! ### Construction -/

/-- Every checked instruction is a well-formed tuple (`30_encoding.md` R62). -/
theorem toTuple_wf (i : Instr) : i.toTuple.wf = true := by
  cases i with
  | addr a b c => exact Laws.WellFormedTuple.addr a b c
  | addi a b c => exact Laws.WellFormedTuple.addi a b c
  | mulr a b c => exact Laws.WellFormedTuple.mulr a b c
  | muli a b c => exact Laws.WellFormedTuple.muli a b c
  | banr a b c => exact Laws.WellFormedTuple.banr a b c
  | bani a b c => exact Laws.WellFormedTuple.bani a b c
  | borr a b c => exact Laws.WellFormedTuple.borr a b c
  | bori a b c => exact Laws.WellFormedTuple.bori a b c
  | setr a b c => exact Laws.WellFormedTuple.setr a b c
  | seti a b c => exact Laws.WellFormedTuple.seti a b c
  | gtir a b c => exact Laws.WellFormedTuple.gtir a b c
  | gtri a b c => exact Laws.WellFormedTuple.gtri a b c
  | gtrr a b c => exact Laws.WellFormedTuple.gtrr a b c
  | eqir a b c => exact Laws.WellFormedTuple.eqir a b c
  | eqri a b c => exact Laws.WellFormedTuple.eqri a b c
  | eqrr a b c => exact Laws.WellFormedTuple.eqrr a b c

/-- Assembly of a list succeeds exactly when each named tuple is accepted, and answers their
instructions in order. -/
theorem assembleAll_eq_ok_iff (src : List NamedTuple) (code : Memory) :
    assembleAll src = .ok code ↔
      List.Forall₂ (fun t i => (NamedTuple.resolve t).bind Tuple.toInstr = .ok i) src code := by
  induction src generalizing code with
  | nil => simp [assembleAll, eq_comm]
  | cons t ts ih =>
    rw [List.forall₂_cons_left_iff]
    simp only [assembleAll, ← ih]
    cases (NamedTuple.resolve t).bind Tuple.toInstr with
    | error r => simp
    | ok i => cases assembleAll ts <;> simp [eq_comm]

/-- The checks on the whole program accept exactly an index 0 to 5 with a store that fits, and keep
both. That the store fits is carried by the program. -/
theorem finishProgram_eq_ok_iff (code : Memory) (k : Int) (p : Program) :
    finishProgram code k = .ok p ↔ isRegIndex k = true ∧ p.code = code ∧ p.ipsel = regOf k := by
  obtain ⟨pcode, pipsel, pfits⟩ := p
  unfold finishProgram
  cases isRegIndex k with
  | false => simp
  | true =>
    by_cases hfits : code.wf = true
    · simp [hfits, eq_comm]
    · have hne : pcode ≠ code := fun h => hfits (h ▸ pfits)
      simp [hfits, hne]

/-- Construction succeeds exactly when every named tuple is accepted and the index is 0 to 5; the
program then holds the instructions and the index. -/
theorem construct_eq_ok_iff (src : List NamedTuple) (k : Int) (p : Program) :
    construct src k = .ok p ↔
      assembleAll src = .ok p.code ∧ isRegIndex k = true ∧ p.ipsel = regOf k := by
  unfold construct
  cases assembleAll src with
  | error r => simp
  | ok code =>
    simp only [finishProgram_eq_ok_iff, Except.ok.injEq, eq_comm (a := code)]
    exact and_left_comm

/-- A constructed program has one instruction for each given one. -/
theorem length_code_of_construct {src : List NamedTuple} {k : Int} {p : Program}
    (h : construct src k = .ok p) : p.code.length = src.length := by
  obtain ⟨hcode, -, -⟩ := (construct_eq_ok_iff src k p).mp h
  exact ((assembleAll_eq_ok_iff src p.code).mp hcode).length_eq.symm

/-- The store of a launched program is its code (`10_state.md` Table R32). -/
@[simp] theorem launch_program (p : Program) (init : RegFile) (budget : Option Nat) :
    (launch p init budget).program = p.code := rfl

/-! ### The program store -/

/-- No instruction writes the program store (`20_memory.md` R50). -/
theorem exec_keeps_program (i : Instr) (s : State) :
    ∃ t, exec i s = .next t ∧ t.program = s.program :=
  ⟨_, exec_eq i s, State.writeReg_program s i.dest (resultOf i s)⟩

/-- No step writes the program store (`20_memory.md` R50). -/
theorem step_keeps_program {s t : State} (h : step s = .next t) : t.program = s.program := by
  obtain ⟨-, rfl⟩ | ⟨-, -, rfl⟩ | ⟨i, -, -, rfl⟩ := step_cases h
  · rfl
  · exact State.halt_program s
  · rw [State.advance_program, State.writeReg_program]

/-- Settles O9: construction makes the store, and by the frames of an instruction and of a step
nothing writes it afterwards. -/
theorem programStoreIsImmutable : Obligations.ProgramStoreIsImmutable := by
  refine ⟨fun src k p hp => ?_, exec_keeps_program, fun s t => step_keeps_program⟩
  exact ⟨length_code_of_construct hp, fun i _ => toTuple_wf i, launch_program p⟩

end Sys2Proof.Machine
end

