-- ==== Sys2Proof/Proofs/Memory.lean ====
section
/-! PROOFS. The instruction store during a run, `20_memory.md` rule R50. -/

namespace Sys2Proof.Machine

/-- What every step keeps, every run keeps. -/
theorem reaches_keeps {P : State → Prop} (hstep : ∀ {s t : State}, step s = .next t → P s → P t)
    {n : Nat} {s t : State} (h : Reaches n s t) (hs : P s) : P t := by
  induction n generalizing s with
  | zero => rwa [reaches_zero.mp h]
  | succ n ih =>
    obtain ⟨u, hu, hrest⟩ := reaches_succ.mp h
    exact ih hrest (hstep hu hs)

/-- No run writes the program store. -/
theorem reaches_keeps_program {n : Nat} {s t : State} (h : Reaches n s t) :
    t.program = s.program :=
  reaches_keeps (P := fun u => u.program = s.program)
    (fun hstep hs => (step_keeps_program hstep).trans hs) h rfl

/-- Settles O10: what a fetch reads depends on the store alone, which neither an instruction nor a
run writes. -/
theorem fetchSeesSameProgramForWholeRun : Obligations.FetchSeesSameProgramForWholeRun := by
  constructor
  · intro i s
    obtain ⟨t, hexec, hprogram⟩ := exec_keeps_program i s
    exact ⟨t, hexec, fun a => congrArg (·.read a) hprogram⟩
  · intro n s t h a
    exact congrArg (·.read a) (reaches_keeps_program h)

end Sys2Proof.Machine
end

