-- ==== Sys2Proof/Proofs/Encoding.lean ====
section
/-! PROOFS. The opcode field of a legal word, `30_encoding.md` rule R64. -/

namespace Sys2Proof

/-! ### The opcode of a decoded instruction -/

/-- Assembly keeps the opcode: each opcode has its own constructor (`30_encoding.md` R61). -/
@[simp] theorem opcode_assemble (t : Tuple) : t.assemble.opcode = t.op := by
  obtain ⟨op, a, b, c⟩ := t
  cases op <;> rfl

/-- The number of a decoded instruction's opcode is the word's `op` field. -/
theorem number_opcode_of_decode {w : InstrWord} {i : Instr} (h : decode w = .ok i) :
    i.opcode.number = InstrWord.op w := by
  obtain ⟨-, -, rfl⟩ := (decode_eq_ok_iff w i).mp h
  rw [opcode_assemble]
  exact number_ofNumber (InstrWord.op w)

/-- The decoder accepts no word with the reserved bit set (`30_encoding.md` R66). -/
theorem rsv_of_decode {w : InstrWord} {i : Instr} (h : decode w = .ok i) :
    InstrWord.rsv w = false := by
  obtain ⟨hrsv, -, -⟩ := (decode_eq_ok_iff w i).mp h
  exact hrsv

/-! ### The mask and the table -/

/-- The mask `0x8F` selects the `op` field and the reserved bit (`30_encoding.md` Table R63). -/
theorem getLsbD_opcodeMask {j : Nat} (hj : j < 136) :
    (0x8F#136).getLsbD j = decide (j < 4 ∨ j = 7) := by
  have hall : ∀ k : Fin 136, (0x8F#136).getLsbD k.val = decide (k.val < 4 ∨ k.val = 7) := by decide
  exact hall ⟨j, hj⟩

/-- Where the reserved bit is 0, masking with `0x8F` leaves the `op` field. -/
theorem and_opcodeMask {w : InstrWord} (hrsv : InstrWord.rsv w = false) :
    w &&& 0x8F#136 = (InstrWord.op w).setWidth 136 := by
  apply BitVec.eq_of_getLsbD_eq
  intro j hj
  rw [BitVec.getLsbD_and, getLsbD_opcodeMask hj, BitVec.getLsbD_setWidth, InstrWord.op,
    BitVec.getLsbD_extractLsb']
  by_cases hop : j < 4
  · simp [hj, hop]
  · by_cases hbit : j = 7
    · have hw : w.getLsbD j = false := hbit ▸ hrsv
      simp [hw, hop]
    · simp [hop, hbit]

/-- The entry of the table at the place `n` is the opcode of number `n`. -/
theorem table_getElem?_toNat (n : BitVec 4) :
    Opcode.table.toList[n.toNat]? = some (Opcode.ofNumber n) := by
  rw [Opcode.ofNumber, Vector.getElem?_toList, Vector.getElem?_eq_getElem n.isLt]

/-- Settles O4: with the reserved bit 0 the mask leaves the `op` field, which is the number of the
decoded opcode, and a number is its opcode's place in the table. -/
theorem maskedWordIsOpcodeNumber : Obligations.MaskedWordIsOpcodeNumber := by
  intro w i h
  constructor
  · rw [and_opcodeMask (rsv_of_decode h), number_opcode_of_decode h]
  · rw [table_getElem?_toNat, ofNumber_number]

end Sys2Proof
end

