-- ==== Sys2Proof/Proofs/Executor.lean ====
section
/-! PROOFS. The executing step, `44_executor.md` rules R150 and R155. -/

namespace Sys2Proof.Machine

/-! ### The program counter after a write and after the increment -/

/-- A write to another register than the bound one leaves the program counter. -/
theorem pc_writeReg_of_ne {s : State} {k : RegIdx} (v : Word) (h : k ≠ s.ipsel) :
    (s.writeReg k v).pc = s.pc :=
  readReg_writeReg_of_ne s v h.symm

/-- The increment of a word below `MAX` does not wrap. -/
theorem toInt_addWrap_one {v : Word} (h : v.toInt < Config.maxVal) :
    (addWrap v 1).toInt = v.toInt + 1 := by
  obtain ⟨hmin, -⟩ := toInt_bounds v
  unfold Config.minVal at hmin
  unfold Config.maxVal at h
  have hone : (1 : Word).toInt = 1 := by decide
  rw [addWrap, toInt_wrap, hone]
  exact Int.bmod_eq_of_le (by omega) (by omega)

/-! ### The executing step -/

namespace Executes

/-- The fetch of an executing step finds its instruction. -/
theorem fetch {s : State} {i : Instr} (h : Executes s i) : s.fetch = some i :=
  (read_eq_some_iff s.program s.pc.toInt i).mpr ⟨h.low, h.fetched⟩

/-- An executing step is the write of the result, then the increment and the count
(`44_executor.md` R150). -/
theorem step_eq {s : State} {i : Instr} (h : Executes s i) :
    step s = .next (s.writeReg i.dest (resultOf i s)).advance :=
  step_of_fetch h.running h.fetch

end Executes

/-- Settles O31: the write leaves the program counter, and the address, being below `N`, is below
`MAX`, so its increment does not wrap. -/
theorem sequentialExecution : Obligations.SequentialExecution := by
  intro s i hfits hexec hdest
  have hlt : s.pc.toInt < Config.maxVal := lt_of_lt_of_le hexec.high hfits
  refine ⟨_, hexec.step_eq, ?_⟩
  rw [pc_advance, pc_writeReg_of_ne _ hdest, toInt_addWrap_one hlt]

end Sys2Proof.Machine
end

