-- ==== Sys2Proof/Proofs/Exceptions.lean ====
section
/-! PROOFS. No exception from the core, `60_exceptions.md` rule R200. -/

namespace Sys2Proof.Machine

/-- The step in the halted state is the identity (`44_executor.md` R157). -/
theorem step_of_halted {s : State} (h : s.halted = true) : step s = .next s := by
  simp [step, h]

/-- A step whose fetch finds nothing is the halt step (`44_executor.md` R152). -/
theorem step_of_fetch_eq_none {s : State} (hrun : s.halted = false) (hfetch : s.fetch = none) :
    step s = .next s.halt := by
  simp [step, hrun, hfetch]

/-- Each of the three kinds of step answers a next state: no fault, no refusal. -/
theorem exists_step_eq_next (s : State) : ∃ t, step s = .next t := by
  cases hhalted : s.halted with
  | true => exact ⟨s, step_of_halted hhalted⟩
  | false =>
    cases hfetch : s.fetch with
    | none => exact ⟨s.halt, step_of_fetch_eq_none hhalted hfetch⟩
    | some i => exact ⟨_, step_of_fetch hhalted hfetch⟩

/-- Settles O23: an instruction answers the write of its result, and the step in the halted state,
the halt step and the executing step each answer a next state. -/
theorem coreRaisesNoException : Obligations.CoreRaisesNoException :=
  ⟨fun i s => ⟨_, exec_eq i s⟩, exists_step_eq_next⟩

end Sys2Proof.Machine
end

section
/-! PROOFS. Encoding and decoding: the two directions of `30_encoding.md` rule R72, the malformed
words of R66 and the assembly of a tuple (R62). -/

namespace Sys2Proof

open Machine

/-! ### Register indices and values as integers -/

/-- The register-index check as bounds. -/
theorem isRegIndex_iff (k : Int) : isRegIndex k = true ↔ 0 ≤ k ∧ k ≤ 5 := by
  simp [isRegIndex]

/-- A checked register field names its own number. -/
theorem val_regOf {k : Int} (h : isRegIndex k = true) : ((regOf k).val : Int) = k := by
  obtain ⟨h0, h5⟩ := (isRegIndex_iff k).mp h
  have hlt : k.toNat < 6 := by omega
  simp only [regOf, Fin.ofNat, Nat.mod_eq_of_lt hlt]
  omega

/-- A value of `[MIN, MAX]` is its own wrap. -/
theorem toInt_wrap_of_isValue {k : Int} (h : isValue k = true) : (wrap k).toInt = k := by
  simp only [isValue, Config.minVal, Config.maxVal, Bool.and_eq_true, decide_eq_true_eq] at h
  rw [toInt_wrap]
  exact Int.bmod_eq_of_le (by omega) (by omega)

/-! ### The fields of an assembled tuple -/

/-- The operand field that assembly makes of an integer, by the mode of the field
(`30_encoding.md` R63, R65). -/
def Mode.fieldWord (m : Mode) (k : Int) : Word :=
  match m with
  | .reg => regField (regOf k)
  | .imm => wrap k
  | .ign => wrap k

/-- A checked field is read back from its word. -/
theorem toInt_fieldWord {m : Mode} {k : Int} (hfield : m.fieldOk k = true)
    (hvalue : isValue k = true) : (m.fieldWord k).toInt = k := by
  cases m with
  | reg => exact (Laws.toInt_regField (regOf k)).trans (val_regOf hfield)
  | imm => exact toInt_wrap_of_isValue hvalue
  | ign => exact toInt_wrap_of_isValue hvalue

@[simp] theorem fieldA_assemble (t : Tuple) :
    t.assemble.fieldA = t.op.modeA.fieldWord t.a := by
  obtain ⟨op, a, b, c⟩ := t
  cases op <;> rfl

@[simp] theorem fieldB_assemble (t : Tuple) :
    t.assemble.fieldB = t.op.modeB.fieldWord t.b := by
  obtain ⟨op, a, b, c⟩ := t
  cases op <;> rfl

@[simp] theorem dest_assemble (t : Tuple) : t.assemble.dest = regOf t.c := by
  obtain ⟨op, a, b, c⟩ := t
  cases op <;> rfl

/-- The checks of `30_encoding.md` R62, one by one. -/
theorem wf_iff (t : Tuple) :
    t.wf = true ↔ isRegIndex t.c = true ∧ t.op.modeA.fieldOk t.a = true ∧
      t.op.modeB.fieldOk t.b = true ∧ isValue t.a = true ∧ isValue t.b = true := by
  simp only [Tuple.wf, Bool.and_eq_true, and_assoc]

/-- A well-formed tuple is assembled to an instruction with that tuple. -/
theorem toTuple_assemble {t : Tuple} (h : t.wf = true) : t.assemble.toTuple = t := by
  obtain ⟨hc, hfieldA, hfieldB, hvalueA, hvalueB⟩ := (wf_iff t).mp h
  rw [Instr.toTuple, opcode_assemble, fieldA_assemble, fieldB_assemble, dest_assemble,
    toInt_fieldWord hfieldA hvalueA, toInt_fieldWord hfieldB hvalueB, val_regOf hc]

@[simp] theorem regOf_toInt_regField (k : RegIdx) : regOf (regField k).toInt = k := by
  rw [Laws.toInt_regField, regOf_val]

/-- The tuple of an instruction is assembled to the instruction. -/
theorem assemble_toTuple (i : Instr) : i.toTuple.assemble = i := by
  cases i <;>
    simp [Tuple.assemble, Instr.toTuple, Instr.opcode, Instr.fieldA, Instr.fieldB, Instr.dest]

/-- Assembly answers exactly the instruction with the given tuple. -/
theorem toInstr_eq_ok_iff_toTuple (t : Tuple) (i : Instr) :
    t.toInstr = .ok i ↔ i.toTuple = t := by
  rw [toInstr_eq_ok_iff]
  constructor
  · rintro ⟨hwf, rfl⟩
    exact toTuple_assemble hwf
  · rintro rfl
    exact ⟨toTuple_wf i, assemble_toTuple i⟩

/-- Settles O6: the check passes exactly the well-formed tuples, and assembly keeps the tuple. -/
theorem tupleAssemblesIffWellFormed : Obligations.TupleAssemblesIffWellFormed := by
  intro t
  refine ⟨?_, fun i h => (toInstr_eq_ok_iff_toTuple t i).mp h⟩
  simp only [toInstr_eq_ok_iff, exists_and_left, exists_eq', and_true]

/-! ### The two directions of the round trip -/

/-- The decoder answers exactly the instruction whose tuple is the word's fields, if the reserved
bit is 0. -/
theorem decode_eq_ok_iff_toTuple (w : InstrWord) (i : Instr) :
    decode w = .ok i ↔ InstrWord.rsv w = false ∧ i.toTuple = InstrWord.rawTuple w := by
  rw [decode_eq_ok_iff, ← toInstr_eq_ok_iff, toInstr_eq_ok_iff_toTuple]

/-- A register index fits the three bits of the field `c`. -/
theorem toNat_ofNat_val (k : RegIdx) : (BitVec.ofNat 3 k.val).toNat = k.val := by
  revert k; decide

/-- The fields of an encoded instruction are its tuple. -/
theorem rawTuple_encode (i : Instr) : InstrWord.rawTuple (encode i) = i.toTuple := by
  simp only [InstrWord.rawTuple, encode, op_packWord, a_packWord, b_packWord, c_packWord,
    ofNumber_number, toNat_ofNat_val, Instr.toTuple]

/-- Decoding undoes encoding. -/
theorem decode_encode (i : Instr) : decode (encode i) = .ok i :=
  (decode_eq_ok_iff_toTuple _ i).mpr ⟨rsv_packWord _ _ _ _, (rawTuple_encode i).symm⟩

/-- Settles O1: the fields of the encoding are the instruction's tuple. -/
theorem decodeOfEncode : Obligations.DecodeOfEncode := decode_encode

/-- An instruction whose tuple is the fields of a word with reserved bit 0 has that word as its
encoding. -/
theorem encode_of_toTuple {w : InstrWord} {i : Instr} (hrsv : InstrWord.rsv w = false)
    (h : i.toTuple = InstrWord.rawTuple w) : encode i = w := by
  simp only [Instr.toTuple, InstrWord.rawTuple, Tuple.mk.injEq, Int.natCast_inj] at h
  obtain ⟨hop, ha, hb, hc⟩ := h
  rw [encode, hop, number_ofNumber, hc, BitVec.ofNat_toNat, BitVec.setWidth_eq,
    BitVec.eq_of_toInt_eq ha, BitVec.eq_of_toInt_eq hb]
  exact packWord_fields hrsv

/-- Encoding undoes decoding. -/
theorem encode_of_decode {w : InstrWord} {i : Instr} (h : decode w = .ok i) : encode i = w := by
  obtain ⟨hrsv, htuple⟩ := (decode_eq_ok_iff_toTuple w i).mp h
  exact encode_of_toTuple hrsv htuple

/-- Settles O2: the decoded instruction's tuple is the fields of the word, all its bits. -/
theorem encodeOfDecode : Obligations.EncodeOfDecode := fun _ _ => encode_of_decode

/-! ### The malformed words -/

/-- A destination outside 0 to 5 is the first reason. -/
theorem toInstr_of_dest {t : Tuple} (hc : isRegIndex t.c = false) :
    t.toInstr = .error .destinationOutOfRange := by
  simp [Tuple.toInstr, Tuple.reject, hc]

/-- A register operand outside 0 to 5 is the second. -/
theorem toInstr_of_operand {t : Tuple} (hc : isRegIndex t.c = true)
    (hfield : ¬(t.op.modeA.fieldOk t.a = true ∧ t.op.modeB.fieldOk t.b = true)) :
    t.toInstr = .error .operandOutOfRegisterRange := by
  rw [← Bool.and_eq_true, Bool.not_eq_true] at hfield
  simp [Tuple.toInstr, Tuple.reject, hc, hfield]

/-- Only a register-mode field is constrained (`30_encoding.md` R62 (3), (4)). -/
theorem fieldOk_iff (m : Mode) (k : Int) :
    m.fieldOk k = true ↔ ¬(m = .reg ∧ ¬(0 ≤ k ∧ k ≤ 5)) := by
  cases m <;> simp [Mode.fieldOk, isRegIndex_iff]

/-- Field `c` as a part of the word's number (`30_encoding.md` Table R63). -/
theorem toNat_c (w : InstrWord) : (InstrWord.c w).toNat = w.toNat / 16 % 8 := by
  simp [InstrWord.c, BitVec.extractLsb'_toNat, Nat.shiftRight_eq_div_pow]

/-- Bit 7 as a part of the word's number. -/
theorem rsv_eq (w : InstrWord) : InstrWord.rsv w = decide (w.toNat / 128 % 2 = 1) := by
  rw [InstrWord.rsv, ← BitVec.testBit_toNat, Nat.testBit_eq_decide_div_mod_eq]

/-- The four fields as parts of the word's number (`30_encoding.md` Table R63). -/
theorem rawTuple_eq (w : InstrWord) :
    InstrWord.rawTuple w =
      ⟨Opcode.ofNumber (BitVec.ofNat 4 (w.toNat % 16)),
        (BitVec.ofNat 64 (w.toNat / 2 ^ 8 % 2 ^ 64)).toInt,
        (BitVec.ofNat 64 (w.toNat / 2 ^ 72)).toInt, (w.toNat / 16 % 8 : Nat)⟩ := by
  have hop : InstrWord.op w = BitVec.ofNat 4 (w.toNat % 16) := by
    apply BitVec.eq_of_toNat_eq
    simp [InstrWord.op, BitVec.extractLsb'_toNat]
  have ha : InstrWord.a w = BitVec.ofNat 64 (w.toNat / 2 ^ 8 % 2 ^ 64) := by
    apply BitVec.eq_of_toNat_eq
    simp [InstrWord.a, BitVec.extractLsb'_toNat, Nat.shiftRight_eq_div_pow]
  have hb : InstrWord.b w = BitVec.ofNat 64 (w.toNat / 2 ^ 72) := by
    apply BitVec.eq_of_toNat_eq
    simp [InstrWord.b, BitVec.extractLsb'_toNat, Nat.shiftRight_eq_div_pow]
  rw [InstrWord.rawTuple, hop, ha, hb, toNat_c]

/-- The decoder at a word with reserved bit 1. -/
theorem decode_of_rsv {w : InstrWord} (h : InstrWord.rsv w = true) :
    decode w = .error .reservedBitSet := by
  simp [decode, h]

/-- The decoder at a word with reserved bit 0 is the check and assembly of its fields. -/
theorem decode_of_not_rsv {w : InstrWord} (h : InstrWord.rsv w = false) :
    decode w = (InstrWord.rawTuple w).toInstr := by
  simp [decode, h]

/-- Settles O3: the reserved bit, then the first reason to refuse the tuple of the fields, whose
immediates are words and so never out of range. -/
theorem decodeRefusesExactlyMalformedWords : Obligations.DecodeRefusesExactlyMalformedWords := by
  intro w n op c a b badOperand
  have hraw : InstrWord.rawTuple w = ⟨op, a, b, (c : Int)⟩ := rawTuple_eq w
  have hdecode : n / 128 % 2 = 0 → decode w = Tuple.toInstr ⟨op, a, b, (c : Int)⟩ := by
    intro hbit
    have hne : ¬n / 128 % 2 = 1 := by omega
    rw [← hraw, decode_of_not_rsv ((rsv_eq w).trans (decide_eq_false hne))]
  have hdest : c < 6 → isRegIndex (c : Int) = true := fun hc =>
    (isRegIndex_iff c).mpr (by omega)
  have hbad : badOperand ↔ ¬(op.modeA.fieldOk a = true ∧ op.modeB.fieldOk b = true) := by
    rw [fieldOk_iff, fieldOk_iff, ← not_or, not_not]
  refine ⟨fun hbit => ?_, fun hbit hc => ?_, fun hbit hc hoperand => ?_,
    fun hbit hc hoperand => ?_⟩
  · exact decode_of_rsv ((rsv_eq w).trans (decide_eq_true hbit))
  · rw [hdecode hbit]
    refine toInstr_of_dest (Bool.eq_false_iff.mpr fun h => ?_)
    have := (isRegIndex_iff c).mp h
    omega
  · rw [hdecode hbit]
    exact toInstr_of_operand (hdest hc) (hbad.mp hoperand)
  · rw [hdecode hbit]
    obtain ⟨hfieldA, hfieldB⟩ := not_not.mp (hbad.not.mp hoperand)
    have hwf : Tuple.wf ⟨op, a, b, (c : Int)⟩ = true := (wf_iff _).mpr
      ⟨hdest hc, hfieldA, hfieldB, Laws.isValue_toInt _, Laws.isValue_toInt _⟩
    exact ⟨_, (toInstr_eq_ok_iff _ _).mpr ⟨hwf, rfl⟩, toTuple_assemble hwf⟩

/-- Settles O5: each printed word decoded. -/
theorem printedWordsDecode : Obligations.PrintedWordsDecode :=
  ⟨Tests.test_decode_addr, Tests.test_decode_addi, Tests.test_decode_muli, Tests.test_decode_bani,
    by decide, by decide, Tests.test_decode_seti, by decide, Tests.test_decode_eqri⟩

end Sys2Proof
end

section
/-! PROOFS. Construction, from names and from words, and what a run finds in the store:
`30_encoding.md` rules R62 and R73, `20_memory.md` R41, `10_state.md` R23. -/

namespace Sys2Proof.Machine

/-! ### Construction from named tuples -/

/-- Two mapped lists are equal when their elements are, pair by pair. -/
theorem map_eq_map_iff {α β γ : Type} (f : α → γ) (g : β → γ) (as : List α) (bs : List β) :
    as.map f = bs.map g ↔ List.Forall₂ (fun a b => f a = g b) as bs := by
  rw [← List.forall₂_eq_eq_eq, List.forall₂_map_left_iff, List.forall₂_map_right_iff]

/-- A named tuple is accepted as an instruction exactly when its name resolves to the instruction's
tuple. -/
theorem bind_toInstr_eq_ok_iff (e : Except Reject Tuple) (i : Instr) :
    e.bind Tuple.toInstr = .ok i ↔ e = .ok i.toTuple := by
  cases e with
  | error r => simp [Except.bind]
  | ok t =>
    have hbind : (Except.ok t).bind Tuple.toInstr = t.toInstr := rfl
    rw [hbind, toInstr_eq_ok_iff_toTuple, Except.ok.injEq, eq_comm]

/-- Assembly of a list answers exactly the instructions whose tuples the names resolve to. -/
theorem assembleAll_eq_ok_iff_map (src : List NamedTuple) (code : Memory) :
    assembleAll src = .ok code ↔
      src.map NamedTuple.resolve = code.map fun i => .ok i.toTuple := by
  simp only [assembleAll_eq_ok_iff, bind_toInstr_eq_ok_iff, map_eq_map_iff]

/-- A program is well-formed by three checks (`30_encoding.md` R62). -/
theorem wfProgram_iff (ts : List Tuple) (k : Int) :
    wfProgram ts k = true ↔
      (∀ t ∈ ts, t.wf = true) ∧ isRegIndex k = true ∧ (ts.length : Int) ≤ Config.maxVal := by
  simp only [wfProgram, Bool.and_eq_true, List.all_eq_true, decide_eq_true_eq, and_assoc]

/-- A store fits when its length is at most `MAX`. -/
theorem memory_wf_iff (m : Memory) : m.wf = true ↔ (m.length : Int) ≤ Config.maxVal :=
  decide_eq_true_iff

/-- The tuples of a store, which fits, with a legal index form a well-formed program. -/
theorem wfProgram_map_toTuple {m : Memory} {k : Int} (hfits : m.wf = true)
    (hk : isRegIndex k = true) : wfProgram (m.map Instr.toTuple) k = true := by
  refine (wfProgram_iff _ _).mpr ⟨?_, hk, ?_⟩
  · exact List.forall_mem_map.mpr fun i _ => toTuple_wf i
  · rw [List.length_map]
    exact (memory_wf_iff m).mp hfits

/-- The instructions assembled from well-formed tuples have those tuples. -/
theorem map_toTuple_map_assemble {ts : List Tuple} (h : ∀ t ∈ ts, t.wf = true) :
    (ts.map Tuple.assemble).map Instr.toTuple = ts := by
  rw [List.map_map]
  exact (List.map_congr_left fun t ht => toTuple_assemble (h t ht)).trans (List.map_id ts)

/-- A well-formed program is constructed. -/
theorem exists_construct_of_wfProgram {src : List NamedTuple} {ts : List Tuple} {k : Int}
    (hresolve : src.map NamedTuple.resolve = ts.map .ok) (hwf : wfProgram ts k = true) :
    ∃ p, construct src k = .ok p := by
  obtain ⟨htuples, hk, hlength⟩ := (wfProgram_iff ts k).mp hwf
  have hfits : Memory.wf (ts.map Tuple.assemble) = true :=
    (memory_wf_iff _).mpr (by rwa [List.length_map])
  refine ⟨⟨ts.map Tuple.assemble, regOf k, hfits⟩, (construct_eq_ok_iff src k _).mpr ⟨?_, hk, rfl⟩⟩
  rw [assembleAll_eq_ok_iff_map, hresolve]
  conv_lhs => rw [← map_toTuple_map_assemble htuples, List.map_map]
  rfl

/-- A constructed program has the tuples its source resolves to, and the given index. -/
theorem of_construct {src : List NamedTuple} {k : Int} {p : Program}
    (h : construct src k = .ok p) :
    src.map NamedTuple.resolve = (p.code.map fun i => .ok i.toTuple) ∧ isRegIndex k = true ∧
      (p.ipsel.val : Int) = k := by
  obtain ⟨hcode, hk, hipsel⟩ := (construct_eq_ok_iff src k p).mp h
  exact ⟨(assembleAll_eq_ok_iff_map src p.code).mp hcode, hk, hipsel ▸ val_regOf hk⟩

/-- Settles O7: the store is the one list of instructions whose tuples are the given ones. -/
theorem constructAcceptsExactlyWellFormed : Obligations.ConstructAcceptsExactlyWellFormed := by
  intro src k
  refine ⟨⟨?_, ?_⟩, fun p hp => ?_⟩
  · rintro ⟨p, hp⟩
    obtain ⟨hresolve, hk, -⟩ := of_construct hp
    exact ⟨p.code.map Instr.toTuple, by rw [hresolve, List.map_map]; rfl,
      wfProgram_map_toTuple p.fits hk⟩
  · rintro ⟨ts, hresolve, hwf⟩
    exact exists_construct_of_wfProgram hresolve hwf
  · obtain ⟨hresolve, -, hipsel⟩ := of_construct hp
    exact ⟨hresolve, hipsel⟩

/-! ### Construction from words -/

/-- Decoding a list answers exactly the instructions of its words, in order. -/
theorem decodeAll_eq_ok_iff (code : List InstrWord) (m : Memory) :
    decodeAll code = .ok m ↔ code.map decode = m.map .ok := by
  rw [map_eq_map_iff]
  induction code generalizing m with
  | nil => simp [decodeAll, eq_comm]
  | cons w ws ih =>
    rw [List.forall₂_cons_left_iff]
    simp only [decodeAll, ← ih]
    cases decode w with
    | error r => simp
    | ok i => cases decodeAll ws <;> simp [eq_comm]

/-- Construction from words succeeds exactly when every word decodes and the index is 0 to 5; the
program then holds the instructions and the index. -/
theorem constructWords_eq_ok_iff (code : List InstrWord) (k : Int) (p : Program) :
    constructWords code k = .ok p ↔
      code.map decode = p.code.map .ok ∧ isRegIndex k = true ∧ p.ipsel = regOf k := by
  rw [← decodeAll_eq_ok_iff]
  unfold constructWords
  cases decodeAll code with
  | error r => simp
  | ok m =>
    simp only [finishProgram_eq_ok_iff, Except.ok.injEq, eq_comm (a := m)]
    exact and_left_comm

/-- Words that decode to a list of instructions are their encodings. -/
theorem map_encode_of_map_decode {code : List InstrWord} {m : Memory}
    (h : code.map decode = m.map .ok) : m.map encode = code := by
  rw [← List.map_id code, map_eq_map_iff]
  exact ((map_eq_map_iff decode .ok code m).mp h).flip.imp fun i w hw => encode_of_decode hw

/-- A list of words decodes as a whole when each of its words does. -/
theorem exists_map_decode_iff (code : List InstrWord) :
    (∃ m : Memory, code.map decode = m.map .ok) ↔ ∀ w ∈ code, ∃ i, decode w = .ok i := by
  have hrange := Set.ext_iff.mp (Set.range_list_map (Except.ok (ε := Reject) (α := Instr)))
    (code.map decode)
  simp only [Set.mem_range, Set.mem_ofPred_eq, List.forall_mem_map] at hrange
  simpa only [eq_comm] using hrange

/-- Settles O8: the store is the list of the decoded instructions, and encoding it gives the words
back. -/
theorem constructWordsAcceptsExactlyLegalWords :
    Obligations.ConstructWordsAcceptsExactlyLegalWords := by
  intro code k
  rw [← exists_map_decode_iff, ← and_assoc (a := 0 ≤ k), ← isRegIndex_iff]
  refine ⟨⟨?_, ?_⟩, fun p hp => ?_⟩
  · rintro ⟨p, hp⟩
    obtain ⟨hdecode, hk, -⟩ := (constructWords_eq_ok_iff code k p).mp hp
    have hlength : code.length = p.code.length := by simpa using congrArg List.length hdecode
    exact ⟨⟨p.code, hdecode⟩, hk, hlength ▸ (memory_wf_iff p.code).mp p.fits⟩
  · rintro ⟨⟨m, hdecode⟩, hk, hfits⟩
    have hlength : code.length = m.length := by simpa using congrArg List.length hdecode
    exact ⟨⟨m, regOf k, (memory_wf_iff m).mpr (hlength ▸ hfits)⟩,
      (constructWords_eq_ok_iff code k _).mpr ⟨hdecode, hk, rfl⟩⟩
  · obtain ⟨hdecode, hk, hipsel⟩ := (constructWords_eq_ok_iff code k p).mp hp
    exact ⟨hdecode, map_encode_of_map_decode hdecode, hipsel ▸ val_regOf hk⟩

/-! ### The selector of the bound register -/

/-- No step writes `IPSEL` (`10_state.md` R23). -/
theorem step_keeps_ipsel {s t : State} (h : step s = .next t) : t.ipsel = s.ipsel := by
  obtain ⟨-, rfl⟩ | ⟨-, -, rfl⟩ | ⟨i, -, -, rfl⟩ := step_cases h
  · rfl
  · exact State.halt_ipsel s
  · rw [State.advance_ipsel, State.writeReg_ipsel]

/-- The result of an instruction does not read `IPSEL`. -/
theorem resultOf_with_ipsel (i : Instr) (s : State) (k : RegIdx) :
    resultOf i { s with ipsel := k } = resultOf i s := by
  cases i <;> rfl

/-- An index outside 0 to 5 is refused by name. -/
theorem construct_of_ipsel {src : List NamedTuple} {code : Memory} {k : Int}
    (hcode : assembleAll src = .ok code) (hk : isRegIndex k = false) :
    construct src k = .error .ipselOutOfRange := by
  simp [construct, hcode, finishProgram, hk]

/-- Settles O11: the index is checked by construction and copied by launch, and afterwards neither
written by a step nor read by an instruction. -/
theorem ipselIsFixedAndUnread : Obligations.IpselIsFixedAndUnread := by
  refine ⟨fun src k p hp => ?_, fun src code k hcode hk => ?_, fun p init budget => rfl,
    fun s t => step_keeps_ipsel, fun i s k => ?_⟩
  · obtain ⟨-, hk, hipsel⟩ := of_construct hp
    obtain ⟨h0, h5⟩ := (isRegIndex_iff k).mp hk
    exact ⟨h0, h5, hipsel⟩
  · refine construct_of_ipsel hcode (Bool.eq_false_iff.mpr fun h => ?_)
    have := (isRegIndex_iff k).mp h
    omega
  · refine ⟨_, exec_eq i s, State.writeReg_ipsel _ _ _, ?_⟩
    rw [exec_eq, resultOf_with_ipsel]
    rfl

/-! ### The store at the word level -/

/-- Settles O25: a word read is the encoding of the instruction read, and decoding undoes it. -/
theorem fetchDecodesWordAtAddress : Obligations.FetchDecodesWordAtAddress := by
  intro m a
  constructor
  · intro w hw
    obtain ⟨i, hread, rfl⟩ := Option.map_eq_some_iff.mp hw
    exact ⟨i, hread, decode_encode i⟩
  · rw [← Option.isSome_iff_exists, Memory.readWord, Option.isSome_map, ← not_iff_not,
      Bool.not_eq_true, Option.isSome_eq_false_iff, Option.isNone_iff_eq_none, read_eq_none_iff]

/-- An executing step is one of a state that is not halted and whose fetch finds the instruction. -/
theorem executes_iff (s : State) (i : Instr) :
    Executes s i ↔ s.halted = false ∧ s.fetch = some i := by
  constructor
  · exact fun h => ⟨h.running, h.fetch⟩
  · rintro ⟨hrun, hfetch⟩
    obtain ⟨hlow, hget⟩ := (read_eq_some_iff s.program s.pc.toInt i).mp hfetch
    have hhigh := (List.getElem?_eq_some_iff.mp hget).1
    exact ⟨hrun, hlow, by omega, hget⟩

/-- Settles O26: no step writes the store, which holds the decoded words in order. -/
theorem runExecutesConstructedWords : Obligations.RunExecutesConstructedWords := by
  intro code k p init budget hp n s w hreach hrun hlow hw
  obtain ⟨hdecode, -, -⟩ := (constructWords_eq_ok_iff code k p).mp hp
  have hprogram : s.program = p.code := reaches_keeps_program hreach
  have hentry : some (decode w) = (s.program[s.pc.toInt.toNat]?).map .ok := by
    rw [hprogram, ← List.getElem?_map, ← hdecode, List.getElem?_map, hw]
    rfl
  obtain ⟨i, hget, hi⟩ := Option.map_eq_some_iff.mp hentry.symm
  exact ⟨i, hi.symm, (executes_iff s i).mpr
    ⟨hrun, (read_eq_some_iff s.program s.pc.toInt i).mpr ⟨hlow, hget⟩⟩⟩

end Sys2Proof.Machine
end

section
/-! PROOFS. The meanings of the instructions: `40_arithmetic.md`, `41_bitwise.md`,
`42_assignment.md`, `43_comparison.md`. -/

namespace Sys2Proof.Machine

/-! ### What every instruction does -/

/-- Every instruction writes its result to its destination and nothing else (`10_state.md` R21). -/
theorem writesResult_resultOf (i : Instr) (s : State) :
    WritesResult i s i.dest (resultOf i s) :=
  ⟨_, exec_eq i s, readReg_writeReg_self s i.dest _, sameExcept_writeReg s i.dest _⟩

/-- A property of the result is one of the destination afterwards. -/
theorem exec_completes {P : Word → Prop} (i : Instr) (s : State) (h : P (resultOf i s)) :
    ∃ t, exec i s = .next t ∧ SameExcept [i.dest] s t ∧ P (t.readReg i.dest) := by
  obtain ⟨t, hexec, hvalue, hframe⟩ := writesResult_resultOf i s
  exact ⟨t, hexec, hframe, hvalue ▸ h⟩

/-! ### Arithmetic -/

/-- `wrap` meets its defining property (`00_scope.md` R10). -/
theorem isWrap_wrap (n : Int) : IsWrap n (wrap n).toInt := by
  obtain ⟨hmin, hmax⟩ := toInt_bounds (wrap n)
  refine ⟨hmin, hmax, ?_⟩
  rw [toInt_wrap]
  exact Int.bmod_emod

/-- Settles O13: the result is the wrap of the signed sum. -/
theorem addInstructionsWriteWrappedSum : Obligations.AddInstructionsWriteWrappedSum :=
  ⟨fun a b c s => exec_completes (P := fun v => IsWrap _ v.toInt) (.addr a b c) s (isWrap_wrap _),
    fun a b c s => exec_completes (P := fun v => IsWrap _ v.toInt) (.addi a b c) s (isWrap_wrap _)⟩

/-- Settles O14: the result is the wrap of the signed product. -/
theorem mulInstructionsWriteWrappedProduct : Obligations.MulInstructionsWriteWrappedProduct :=
  ⟨fun a b c s => exec_completes (P := fun v => IsWrap _ v.toInt) (.mulr a b c) s (isWrap_wrap _),
    fun a b c s => exec_completes (P := fun v => IsWrap _ v.toInt) (.muli a b c) s (isWrap_wrap _)⟩

/-- The wrapped negative of a value is its negative as a word. -/
theorem wrap_neg_toInt (p : Word) : wrap (-p.toInt) = -p := by
  rw [wrap, BitVec.ofInt_neg, BitVec.ofInt_toInt]

/-- Settles O17: wrapped sums and products are those of 64-bit words, a commutative ring. -/
theorem wrappedArithmeticLaws : Obligations.WrappedArithmeticLaws := by
  intro p q r
  simp only [addWrap_eq, mulWrap_eq, wrap_neg_toInt]
  exact ⟨add_comm p q, add_assoc p q r, add_zero p, add_neg_cancel p, mul_comm p q,
    mul_assoc p q r, mul_one p, mul_zero p, mul_neg_one p, mul_add p q r⟩

/-! ### Bitwise -/

/-- Each bit of `v` is `f` of the two bits at its place. -/
def EachBit (f : Bool → Bool → Bool) (p q v : Word) : Prop :=
  ∀ j, v.getLsbD j = f (p.getLsbD j) (q.getLsbD j)

theorem eachBit_bitAnd (p q : Word) : EachBit and p q (bitAnd p q) := fun _ => BitVec.getLsbD_and

theorem eachBit_bitOr (p q : Word) : EachBit or p q (bitOr p q) := fun _ => BitVec.getLsbD_or

/-- Settles O15: each bit of the result is that of the two operands. -/
theorem bitwiseInstructionsActPerBit : Obligations.BitwiseInstructionsActPerBit :=
  ⟨fun a b c s => exec_completes (P := EachBit and _ _) (.banr a b c) s (eachBit_bitAnd _ _),
    fun a b c s => exec_completes (P := EachBit and _ _) (.bani a b c) s (eachBit_bitAnd _ _),
    fun a b c s => exec_completes (P := EachBit or _ _) (.borr a b c) s (eachBit_bitOr _ _),
    fun a b c s => exec_completes (P := EachBit or _ _) (.bori a b c) s (eachBit_bitOr _ _)⟩

/-- A word is negative when its top bit is 1. -/
theorem toInt_neg_iff_msb (p : Word) : p.toInt < 0 ↔ p.msb = true := by
  rw [BitVec.msb_eq_toInt, decide_eq_true_iff]

/-- A word is not negative when its top bit is 0, and then it is its own unsigned number. -/
theorem toInt_eq_toNat_of_nonneg {p : Word} (h : 0 ≤ p.toInt) : p.toInt = p.toNat := by
  refine BitVec.toInt_eq_toNat_of_msb (Bool.eq_false_iff.mpr fun hmsb => ?_)
  have := (toInt_neg_iff_msb p).mpr hmsb
  omega

/-- `p & q` is negative when both are. -/
theorem bitAnd_neg_iff (p q : Word) :
    (bitAnd p q).toInt < 0 ↔ p.toInt < 0 ∧ q.toInt < 0 := by
  simp only [toInt_neg_iff_msb, bitAnd, BitVec.msb_and, Bool.and_eq_true]

/-- `p | q` is negative when one of them is. -/
theorem bitOr_neg_iff (p q : Word) :
    (bitOr p q).toInt < 0 ↔ p.toInt < 0 ∨ q.toInt < 0 := by
  simp only [toInt_neg_iff_msb, bitOr, BitVec.msb_or, Bool.or_eq_true]

/-- A non-negative operand bounds `&` on both sides. -/
theorem bitAnd_bounds {p : Word} (q : Word) (hp : 0 ≤ p.toInt) :
    0 ≤ (bitAnd p q).toInt ∧ (bitAnd p q).toInt ≤ p.toInt := by
  have hand : 0 ≤ (bitAnd p q).toInt :=
    not_lt.mp fun h => not_lt.mpr hp ((bitAnd_neg_iff p q).mp h).1
  refine ⟨hand, ?_⟩
  rw [toInt_eq_toNat_of_nonneg hand, toInt_eq_toNat_of_nonneg hp, Nat.cast_le, bitAnd,
    BitVec.toNat_and]
  exact Nat.and_le_left

/-- `|` of two non-negative operands is at least the first. -/
theorem le_bitOr {p q : Word} (hp : 0 ≤ p.toInt) (hq : 0 ≤ q.toInt) :
    p.toInt ≤ (bitOr p q).toInt := by
  have hor : 0 ≤ (bitOr p q).toInt :=
    not_lt.mp fun h => ((bitOr_neg_iff p q).mp h).elim (not_lt.mpr hp) (not_lt.mpr hq)
  rw [toInt_eq_toNat_of_nonneg hor, toInt_eq_toNat_of_nonneg hp, Nat.cast_le, bitOr,
    BitVec.toNat_or]
  exact Nat.left_le_or

theorem bitAnd_comm (p q : Word) : bitAnd p q = bitAnd q p := BitVec.and_comm p q

theorem bitOr_comm (p q : Word) : bitOr p q = bitOr q p := BitVec.or_comm p q

/-- Settles O16: the signs by the top bit, the bounds by the unsigned numbers. -/
theorem bitwiseSignedBounds : Obligations.BitwiseSignedBounds := fun p q =>
  ⟨bitAnd_neg_iff p q, bitOr_neg_iff p q, bitAnd_bounds q,
    fun hq => bitAnd_comm q p ▸ bitAnd_bounds p hq,
    fun hp hq => ⟨le_bitOr hp hq, bitOr_comm q p ▸ le_bitOr hq hp⟩⟩

/-! ### Assignment and comparison -/

/-- Settles O18: the result of an assignment is its operand, and no meaning reads the ignored
field. -/
theorem assignmentInstructionsCopy : Obligations.AssignmentInstructionsCopy :=
  ⟨fun a b c s => ⟨writesResult_resultOf (.setr a b c) s, fun _ => rfl⟩,
    fun a b c s => ⟨writesResult_resultOf (.seti a b c) s, fun _ => rfl⟩⟩

/-- Settles O19: the outcome is that of the signed order. -/
theorem greaterThanInstructionsCompareSigned :
    Obligations.GreaterThanInstructionsCompareSigned := by
  simp only [Obligations.GreaterThanInstructionsCompareSigned, ← gtOutcome_eq]
  exact ⟨fun a b c s => writesResult_resultOf (.gtir a b c) s,
    fun a b c s => writesResult_resultOf (.gtri a b c) s,
    fun a b c s => writesResult_resultOf (.gtrr a b c) s⟩

/-- The outcome of an equality, by the signed values. -/
theorem eqOutcome_eq_toInt (p q : Word) :
    eqOutcome p q = if p.toInt = q.toInt then 1 else 0 := by
  simp only [eqOutcome_eq, BitVec.toInt_inj]

/-- Settles O20: words are equal when their signed values are. -/
theorem equalityInstructionsCompareWhole : Obligations.EqualityInstructionsCompareWhole := by
  simp only [Obligations.EqualityInstructionsCompareWhole, ← eqOutcome_eq_toInt]
  exact ⟨fun a b c s => writesResult_resultOf (.eqir a b c) s,
    fun a b c s => writesResult_resultOf (.eqri a b c) s,
    fun a b c s => writesResult_resultOf (.eqrr a b c) s⟩

/-- An outcome is 0 or 1 (`43_comparison.md` R137). -/
theorem outcome_eq_zero_or_one (b : Bool) : outcome b = 0 ∨ outcome b = 1 := by
  cases b
  · exact .inl rfl
  · exact .inr rfl

/-- The result of a comparison is 0 or 1. -/
theorem resultOf_comparison (i : Instr) (s : State)
    (h : i.opcode ∈ [Opcode.gtir, .gtri, .gtrr, .eqir, .eqri, .eqrr]) :
    resultOf i s = 0 ∨ resultOf i s = 1 := by
  cases i with
  | gtir | gtri | gtrr | eqir | eqri | eqrr => exact outcome_eq_zero_or_one _
  | _ => simp [Instr.opcode] at h

/-! ### What a result depends on -/

/-- The result depends only on the registers of the register-mode fields. -/
theorem resultOf_congr (i : Instr) {s₁ s₂ : State}
    (h : ∀ r ∈ readsOf i, s₁.readReg r = s₂.readReg r) : resultOf i s₁ = resultOf i s₂ := by
  cases i <;> simp_all [readsOf, resultOf]

/-- Settles O22: both write their results, which agree. -/
theorem resultDependsOnNamedOperandsOnly : Obligations.ResultDependsOnNamedOperandsOnly := by
  intro i s₁ s₂ hagree
  obtain ⟨t₁, hexec₁, hvalue₁, -⟩ := writesResult_resultOf i s₁
  obtain ⟨t₂, hexec₂, hvalue₂, -⟩ := writesResult_resultOf i s₂
  exact ⟨t₁, t₂, hexec₁, hexec₂, by rw [hvalue₁, hvalue₂, resultOf_congr i hagree]⟩

end Sys2Proof.Machine
end

section
/-! PROOFS. One step: `44_executor.md` rules R150 to R163 and `10_state.md` R22 and R26. -/

namespace Sys2Proof.Machine

/-! ### The executing step -/

/-- Settles O24: the step of the listing is the instruction, the increment and the count. -/
theorem stepRunsDecodedInstruction : Obligations.StepRunsDecodedInstruction :=
  fun s i h => ⟨_, exec_eq i s, h.step_eq⟩

/-- The program counter after a write. -/
theorem pc_writeReg (s : State) (k : RegIdx) (v : Word) :
    (s.writeReg k v).pc = if k = s.ipsel then v else s.pc := by
  simp only [State.pc, State.writeReg_ipsel, readReg_writeReg, eq_comm]

/-- The state after an executing step. -/
def State.after (s : State) (i : Instr) : State := (s.writeReg i.dest (resultOf i s)).advance

/-- The address after an executing step is the wrapped successor of what the instruction left in the
bound register. -/
theorem pc_after (s : State) (i : Instr) :
    (s.after i).pc = addWrap (if i.dest = s.ipsel then resultOf i s else s.pc) 1 := by
  rw [State.after, pc_advance, pc_writeReg]

/-- The increment is the wrap of the signed successor. -/
theorem isWrap_addWrap_one (v : Word) : IsWrap (v.toInt + 1) (addWrap v 1).toInt :=
  isWrap_wrap (v.toInt + 1)

/-- Settles O29: the address after the step is that of `pc_after`. -/
theorem incrementFollowsWriteAlways : Obligations.IncrementFollowsWriteAlways := by
  intro s i h
  refine ⟨_, s.after i, writesResult_resultOf i s, h.step_eq, ?_⟩
  rw [pc_after, ← apply_ite BitVec.toInt]
  exact isWrap_addWrap_one _

/-- Every register after an executing step. -/
theorem readReg_after (s : State) (i : Instr) (r : RegIdx) :
    (s.after i).readReg r =
      if r = s.ipsel then (s.after i).pc else if r = i.dest then resultOf i s else s.readReg r := by
  rw [State.after, readReg_advance, readReg_writeReg, pc_advance, State.writeReg_ipsel]

/-- Settles O32: the write touches the destination, the increment the bound register, and the count
only what is counted. -/
theorem executingStepFrame : Obligations.ExecutingStepFrame := by
  intro s i h
  refine ⟨_, s.after i, writesResult_resultOf i s, h.step_eq, fun hne => ?_, fun r hdest hsel => ?_,
    rfl, rfl, rfl, rfl, ?_⟩
  · rw [readReg_after, if_neg hne, if_pos rfl]
  · rw [readReg_after, if_neg hsel, if_neg hdest]
  · rw [State.after, State.advance_stepCnt]
    cases hb : s.stepBudget <;> simp [hb]

/-- Settles O33: only the third kind of step writes the registers. -/
theorem registersChangeOnlyInExecutingStep : Obligations.RegistersChangeOnlyInExecutingStep := by
  intro s t h
  obtain ⟨-, rfl⟩ | ⟨-, -, rfl⟩ | ⟨i, hrun, hfetch, rfl⟩ := step_cases h
  · exact .inl rfl
  · exact .inl (State.halt_x s)
  · exact .inr ⟨i, _, (executes_iff s i).mpr ⟨hrun, hfetch⟩, writesResult_resultOf i s, rfl⟩

/-! ### The halt step -/

/-- A halt address is one below 0 or at or above `N`. -/
theorem atHalt_iff (s : State) :
    s.atHalt = true ↔ s.pc.toInt < 0 ∨ (s.program.length : Int) ≤ s.pc.toInt := by
  rw [← fetch_eq_none_iff, State.fetch, read_eq_none_iff]
  omega

/-- The halt step from a halt address (`44_executor.md` R152). -/
theorem step_of_atHalt {s : State} (hrun : s.halted = false) (hhalt : s.atHalt = true) :
    step s = .next s.halt :=
  step_of_fetch_eq_none hrun ((fetch_eq_none_iff s).mpr hhalt)

/-- Settles O27: out of range is a halt address. -/
theorem haltStepSetsOnlyHalted : Obligations.HaltStepSetsOnlyHalted :=
  fun s hrun hout => step_of_atHalt hrun ((atHalt_iff s).mpr hout)

/-- Settles O28: the first case of the listing. -/
theorem haltedStepIsIdentity : Obligations.HaltedStepIsIdentity := fun _ => step_of_halted

/-- A step that executes is not at a halt address. -/
theorem atHalt_of_fetch {s : State} {i : Instr} (h : s.fetch = some i) : s.atHalt = false := by
  rw [← Bool.not_eq_true, ← fetch_eq_none_iff, h]
  exact Option.some_ne_none i

/-- Settles O34: by the three kinds of step, of which only the halt step sets the bit and only the
executing step changes the address. -/
theorem haltedIsSetOnlyByHaltStep : Obligations.HaltedIsSetOnlyByHaltStep := by
  intro s t h
  obtain ⟨hhalted, rfl⟩ | ⟨hrun, hnone, rfl⟩ | ⟨i, hrun, hfetch, rfl⟩ := step_cases h
  · exact ⟨by simp [hhalted], fun hhalt => ⟨hhalt, rfl⟩⟩
  · have hhalt := (fetch_eq_none_iff s).mp hnone
    exact ⟨by simp [hhalt], fun _ => ⟨hhalt, rfl⟩⟩
  · have hhalt := atHalt_of_fetch hfetch
    exact ⟨by simp [hrun, hhalt], fun h => by simp [hhalt] at h⟩

/-! ### Jumps -/

/-- A write to the bound register is a jump to the value plus one. -/
theorem pc_after_of_dest {s : State} {i : Instr} (h : i.dest = s.ipsel) :
    (s.after i).pc = resultOf i s + 1 := by
  rw [pc_after, if_pos h, addWrap_eq]

/-- Any other write leaves the next address in sequence. -/
theorem pc_after_of_dest_ne {s : State} {i : Instr} (h : i.dest ≠ s.ipsel) :
    (s.after i).pc = s.pc + 1 := by
  rw [pc_after, if_neg h, addWrap_eq]

/-- Settles O30: the jump is the increment of the result, and the next step is that of a running
state at the new address. -/
theorem writeToIpselRegisterIsJump : Obligations.WriteToIpselRegisterIsJump := by
  constructor
  · intro s i h hdest
    have hrun : (s.after i).halted = false := h.running
    refine ⟨_, s.after i, writesResult_resultOf i s, h.step_eq, ?_, rfl,
      fun j hlow hhigh hget => ⟨hrun, hlow, hhigh, hget⟩, fun hout => ?_⟩
    · rw [pc_after, if_pos hdest]
      exact isWrap_addWrap_one _
    · refine haltStepSetsOnlyHalted _ hrun ?_
      have hprogram : (s.after i).program = s.program := rfl
      rw [hprogram]
      omega
  · intro s b h _
    exact ⟨_, h.step_eq, pc_after_of_dest (i := .seti 5 b s.ipsel) rfl⟩

/-- A sum written to the bound register, with it as either operand, skips that many instructions. -/
theorem step_addr_ipsel {s : State} {r : RegIdx}
    (h : Executes s (.addr s.ipsel r s.ipsel) ∨ Executes s (.addr r s.ipsel s.ipsel)) :
    ∃ t, step s = .next t ∧ t.pc = s.pc + 1 + s.readReg r := by
  rcases h with h | h
  · refine ⟨_, h.step_eq, (pc_after_of_dest (i := .addr s.ipsel r s.ipsel) rfl).trans ?_⟩
    rw [resultOf, addWrap_eq, ← pc_eq_readReg_ipsel, add_right_comm]
  · refine ⟨_, h.step_eq, (pc_after_of_dest (i := .addr r s.ipsel s.ipsel) rfl).trans ?_⟩
    rw [resultOf, addWrap_eq, ← pc_eq_readReg_ipsel, add_comm (s.readReg r), add_right_comm]

/-- Settles O21: a comparison's result is an outcome, and adding it is a jump. -/
theorem comparisonOutcomeIsZeroOrOne : Obligations.ComparisonOutcomeIsZeroOrOne := by
  refine ⟨fun i s hop => ?_, fun s r h _ => step_addr_ipsel h⟩
  obtain ⟨t, hexec, -, hvalue⟩ :=
    exec_completes (P := fun v => v = 0 ∨ v = 1) i s (resultOf_comparison i s hop)
  exact ⟨t, hexec, hvalue⟩

/-- The registers after a jump. -/
theorem x_after_of_dest {s : State} {i : Instr} (h : i.dest = s.ipsel) :
    (s.after i).x = s.x.set s.ipsel.val (resultOf i s + 1) := by
  rw [State.after, State.advance_x, pc_writeReg, if_pos h, addWrap_eq, State.writeReg_x, h]
  exact Vector.set_set ..

/-- The self-loop changes no register (`44_executor.md` Table R160). -/
theorem x_after_selfLoop (s : State) : (s.after (.addi s.ipsel (-1) s.ipsel)).x = s.x := by
  rw [x_after_of_dest rfl, resultOf, addWrap_eq, neg_add_cancel_right]
  exact Vector.set_getElem_self _

/-- Settles O35: each idiom is a jump to its result plus one, or the next in sequence. -/
theorem controlTransferIdioms : Obligations.ControlTransferIdioms := by
  intro s k T v r
  refine ⟨fun h => ⟨_, h.step_eq, ?_⟩, fun h => ⟨_, h.step_eq, ?_⟩,
    fun h => ⟨_, h.step_eq, ?_, x_after_selfLoop s⟩, step_addr_ipsel, fun h => ⟨_, h.step_eq, ?_⟩,
    fun hr h => ⟨_, h.step_eq, ?_, ?_⟩, fun hr h => ⟨_, h.step_eq, ?_⟩⟩
  · exact (pc_after_of_dest (i := .seti (T - 1) v s.ipsel) rfl).trans (sub_add_cancel T 1)
  · refine (pc_after_of_dest (i := .addi s.ipsel k s.ipsel) rfl).trans ?_
    rw [resultOf, addWrap_eq, pc_eq_readReg_ipsel]
  · refine (pc_after_of_dest (i := .addi s.ipsel (-1) s.ipsel) rfl).trans ?_
    rw [resultOf, addWrap_eq, neg_add_cancel_right, pc_eq_readReg_ipsel]
  · exact pc_after_of_dest (i := .setr r v s.ipsel) rfl
  · exact pc_after_of_dest_ne (i := .setr s.ipsel v r) hr
  · refine (readReg_after s (.setr s.ipsel v r) r).trans ?_
    rw [if_neg hr, Instr.dest, if_pos rfl, resultOf, pc_eq_readReg_ipsel]
  · refine (readReg_after s (.addi s.ipsel 1 r) r).trans ?_
    rw [if_neg hr, Instr.dest, if_pos rfl, resultOf, addWrap_eq, pc_eq_readReg_ipsel]

/-! ### The placed word -/

/-- In range, the placed instruction replaces the one at the address. -/
theorem executes_placeAtFetch_of_inRange {s : State} (i : Instr) (h : s.inRange = true) :
    Executes (s.placeAtFetch i) i := by
  obtain ⟨hlow, hhigh⟩ : 0 ≤ s.pc.toInt ∧ s.pc.toInt < s.program.length := by
    simpa [State.inRange] using h
  rw [State.placeAtFetch, if_pos h]
  exact {
    running := rfl
    low := hlow
    high := by
      rw [List.length_set]
      exact hhigh
    fetched := List.getElem?_set_self (by omega) }

/-- Out of range, the placed instruction is the whole program, and the address is 0. -/
theorem executes_placeAtFetch_of_not_inRange {s : State} (i : Instr) (h : ¬s.inRange = true) :
    Executes (s.placeAtFetch i) i := by
  have hpc : (s.placeAtFetch i).pc = 0 := by
    rw [State.placeAtFetch, if_neg h]
    exact readReg_writeReg_self s s.ipsel 0
  have hprogram : (s.placeAtFetch i).program = [i] := by
    rw [State.placeAtFetch, if_neg h]
  refine ⟨?_, ?_, ?_, ?_⟩
  · rw [State.placeAtFetch, if_neg h]
  · rw [hpc]
    rfl
  · rw [hpc, hprogram]
    exact Int.one_pos
  · rw [hpc, hprogram]
    rfl

/-- An instruction placed at the fetch address is the one the next step executes. -/
theorem executes_placeAtFetch (s : State) (i : Instr) : Executes (s.placeAtFetch i) i := by
  by_cases h : s.inRange = true
  · exact executes_placeAtFetch_of_inRange i h
  · exact executes_placeAtFetch_of_not_inRange i h

/-- Loading a legal word places the instruction it decodes to. -/
theorem loadAtFetch_of_decode {w : InstrWord} {i : Instr} (s : State) (h : decode w = .ok i) :
    s.loadAtFetch w = s.placeAtFetch i := by
  simp [State.loadAtFetch, h]

/-- What the decoder reads from a numbered word is what it reads from the word's bits. -/
theorem decode_of_decodeTableWord {nbits w : Nat} {i : Instr}
    (h : decodeTableWord nbits w = some i) : decode (tableWord nbits w) = .ok i := by
  unfold decodeTableWord at h
  split at h
  · cases hd : decode (tableWord nbits w) <;> simp_all [Except.toOption]
  · simp at h

/-- Settles O36: the word decodes and its instruction is placed. -/
theorem placedWordExecutesNext : Obligations.PlacedWordExecutesNext := by
  intro s nbits w i h
  rw [State.withFetchWord, loadAtFetch_of_decode s (decode_of_decodeTableWord h)]
  exact executes_placeAtFetch s i

end Sys2Proof.Machine
end

section
/-! PROOFS. The machine on 64-bit values and the normative one on tuples and integers:
`00_scope.md` rule R7, Listing R150 of `44_executor.md`. -/

namespace Sys2Proof.Machine

/-! ### Values -/

/-- The two definitions of `wrap` agree (`00_scope.md` R10). -/
theorem wrapInt_eq (n : Int) : wrapInt n = (wrap n).toInt := by
  rw [toInt_wrap, Int.bmod_def, wrapInt]
  split <;> omega

/-- The unsigned reading of a word's signed value. -/
theorem unsignedOf_toInt (v : Word) : unsignedOf v.toInt = v.toNat := by
  have hlt := v.isLt
  rw [unsignedOf, BitVec.toInt_eq_toNat_cond]
  split <;> omega

/-- The wrap of a word's unsigned value is the word. -/
theorem wrap_toNat (v : Word) : wrap (v.toNat : Int) = v := by
  rw [wrap, BitVec.ofInt_natCast, BitVec.ofNat_toNat, BitVec.setWidth_eq]

theorem wrap_unsignedOf_and (p q : Word) :
    wrap (unsignedOf p.toInt &&& unsignedOf q.toInt : Nat) = bitAnd p q := by
  rw [unsignedOf_toInt, unsignedOf_toInt, ← BitVec.toNat_and, wrap_toNat, bitAnd]

theorem wrap_unsignedOf_or (p q : Word) :
    wrap (unsignedOf p.toInt ||| unsignedOf q.toInt : Nat) = bitOr p q := by
  rw [unsignedOf_toInt, unsignedOf_toInt, ← BitVec.toNat_or, wrap_toNat, bitOr]

theorem toInt_gtOutcome (p q : Word) :
    (gtOutcome p q).toInt = if p.toInt > q.toInt then 1 else 0 := by
  rw [gtOutcome_eq]
  split <;> rfl

theorem toInt_eqOutcome (p q : Word) :
    (eqOutcome p q).toInt = if p.toInt = q.toInt then 1 else 0 := by
  rw [eqOutcome_eq_toInt]
  split <;> rfl

/-! ### Operands and results -/

/-- A register read at the tuple level. -/
theorem toTupleLevel_x_get (s : State) (k : RegIdx) :
    s.toTupleLevel.x[k.val] = (s.readReg k).toInt :=
  Vector.getElem_map ..

/-- A register-mode operand at the tuple level is the register's signed value. -/
theorem valInt_reg (s : State) (k : RegIdx) :
    valInt s.toTupleLevel.x .reg (regField k).toInt = (s.readReg k).toInt := by
  simp only [valInt, regOf_toInt_regField, toTupleLevel_x_get]

/-- An immediate at the tuple level is its signed value. -/
theorem valInt_imm (x : Vector Int 6) (k : Int) : valInt x .imm k = k := rfl

/-- The sixteen functions on integers answer the signed results of the instructions
(`44_executor.md` R162). -/
theorem aluInt_toTupleLevel (i : Instr) (s : State) :
    aluInt i.toTuple.op (valInt s.toTupleLevel.x i.toTuple.op.modeA i.toTuple.a)
      (valInt s.toTupleLevel.x i.toTuple.op.modeB i.toTuple.b) = (resultOf i s).toInt := by
  cases i <;>
    simp only [Instr.toTuple, Instr.opcode, Instr.fieldA, Instr.fieldB, Opcode.modeA, Opcode.modeB,
      valInt_reg, valInt_imm, aluInt, resultOf, wrap_unsignedOf_and, wrap_unsignedOf_or,
      toInt_gtOutcome, toInt_eqOutcome, wrapInt_eq, addWrap, mulWrap]

/-! ### The step -/

/-- A write at the tuple level. -/
theorem toTupleLevel_writeReg_x (s : State) (k : RegIdx) (v : Word) :
    (s.writeReg k v).toTupleLevel.x = s.toTupleLevel.x.set k.val v.toInt :=
  Vector.map_set ..

/-- The address at the tuple level. -/
theorem toTupleLevel_addr (s : State) :
    s.toTupleLevel.x[s.toTupleLevel.ipsel.val] = s.pc.toInt :=
  toTupleLevel_x_get s s.ipsel

/-- The entry of the store at the tuple level. -/
theorem toTupleLevel_program_get (s : State) (n : Nat) :
    s.toTupleLevel.program[n]? = (s.program[n]?).map Instr.toTuple :=
  List.getElem?_map

/-- The destination field at the tuple level. -/
theorem regOf_toTuple_c (i : Instr) : regOf i.toTuple.c = i.dest := regOf_val i.dest

/-- The tuple-level step in the halted state. -/
theorem tupleStep_of_halted {s : State} (h : s.halted = true) :
    tupleStep s.toTupleLevel = s.toTupleLevel :=
  if_pos h

/-- The tuple-level step at a halt address. -/
theorem tupleStep_of_atHalt {s : State} (hrun : s.halted = false) (h : s.atHalt = true) :
    tupleStep s.toTupleLevel = s.halt.toTupleLevel := by
  have hhalted : ¬s.toTupleLevel.halted = true := by simp [State.toTupleLevel, hrun]
  rw [tupleStep, if_neg hhalted, toTupleLevel_addr]
  dsimp only
  by_cases hlow : 0 ≤ s.pc.toInt
  · have hnone : s.program[s.pc.toInt.toNat]? = none := by
      have := (atHalt_iff s).mp h
      exact List.getElem?_eq_none (by omega)
    rw [if_pos hlow, toTupleLevel_program_get, hnone]
    rfl
  · rw [if_neg hlow]
    rfl

/-- The tuple-level step at an instruction. -/
theorem tupleStep_of_executes {s : State} {i : Instr} (h : Executes s i) :
    tupleStep s.toTupleLevel = (s.after i).toTupleLevel := by
  have hhalted : ¬s.toTupleLevel.halted = true := by simp [State.toTupleLevel, h.running]
  rw [tupleStep, if_neg hhalted, toTupleLevel_addr]
  dsimp only
  rw [if_pos h.low, toTupleLevel_program_get, h.fetched, Option.map_some]
  have hpc : (s.writeReg i.dest (resultOf i s)).toTupleLevel.x[s.toTupleLevel.ipsel.val] =
      (s.writeReg i.dest (resultOf i s)).pc.toInt :=
    toTupleLevel_addr _
  simp only [regOf_toTuple_c, aluInt_toTupleLevel, ← toTupleLevel_writeReg_x, hpc, wrapInt_eq]
  rfl

/-- Settles O44: the three kinds of step, of which the executing one computes the same result,
writes it to the same place and then increments. -/
theorem stepRefinesTupleLevel : Obligations.StepRefinesTupleLevel := by
  intro s
  obtain ⟨t, ht⟩ := exists_step_eq_next s
  refine ⟨t, ht, ?_⟩
  obtain ⟨hhalted, rfl⟩ | ⟨hrun, hnone, rfl⟩ | ⟨i, hrun, hfetch, rfl⟩ := step_cases ht
  · exact (tupleStep_of_halted hhalted).symm
  · exact (tupleStep_of_atHalt hrun ((fetch_eq_none_iff s).mp hnone)).symm
  · exact (tupleStep_of_executes ((executes_iff s i).mpr ⟨hrun, hfetch⟩)).symm

end Sys2Proof.Machine
end

section
/-! PROOFS. Launch, the invariant and runs: `10_state.md` R26, R28 and R32, `44_executor.md` R157
and R164, `60_exceptions.md` R200 and R210. -/

namespace Sys2Proof.Machine

/-! ### The invariant -/

/-- The halt step keeps the invariant, from a halt address. -/
theorem inv_halt {s : State} (hs : s.Inv) (hhalt : s.atHalt = true) : s.halt.Inv where
  memory := halt_wf hs.memory
  haltedAtHalt _ := hhalt
  uncounted := hs.uncounted

/-- An executing step keeps the invariant: it leaves the core running and counts only under a
budget. -/
theorem inv_after {s : State} (i : Instr) (hs : s.Inv) (hrun : s.halted = false) :
    (s.after i).Inv where
  memory := advance_wf (writeReg_wf i.dest _ hs.memory)
  haltedAtHalt h := by
    have hrun' : (s.after i).halted = false := hrun
    rw [hrun'] at h
    contradiction
  uncounted h := by
    have hbudget : s.stepBudget = none := h
    rw [State.after, State.advance_stepCnt, State.writeReg_stepBudget, hbudget]
    exact hs.uncounted hbudget

/-- Settles O37: the halt step sets the bit at a halt address, and an executing step leaves it 0. -/
theorem invariantKeptByStep : Obligations.InvariantKeptByStep := by
  intro s t hs h
  obtain ⟨-, rfl⟩ | ⟨-, hnone, rfl⟩ | ⟨i, hrun, -, rfl⟩ := step_cases h
  · exact hs
  · exact inv_halt hs ((fetch_eq_none_iff s).mp hnone)
  · exact inv_after i hs hrun

/-- Settles O38: a running state with the empty program and no count. -/
theorem invariantHoldsAtReset : Obligations.InvariantHoldsAtReset where
  memory := rfl
  haltedAtHalt _ := rfl
  uncounted _ := rfl

/-- Settles O39: the fields of the launch state. -/
theorem launchSetsExactlyItsInputs : Obligations.LaunchSetsExactlyItsInputs :=
  fun _ _ _ => ⟨fun _ => rfl, rfl, rfl, rfl, rfl, rfl, rfl⟩

/-- Settles O40: the store of a program fits, the bit is 0 and so is the count. -/
theorem invariantHoldsAtLaunch : Obligations.InvariantHoldsAtLaunch := fun p _ _ =>
  { memory := p.fits
    haltedAtHalt := fun h => Bool.noConfusion h
    uncounted := fun _ => rfl }

/-! ### Runs -/

/-- A run of every length exists from every state, since every step answers a next state. -/
theorem exists_reaches (n : Nat) (s : State) : ∃ t, Reaches n s t := by
  induction n generalizing s with
  | zero => exact ⟨s, reaches_zero.mpr rfl⟩
  | succ n ih =>
    obtain ⟨u, hstep⟩ := exists_step_eq_next s
    obtain ⟨t, ht⟩ := ih u
    exact ⟨t, reaches_succ.mpr ⟨u, hstep, ht⟩⟩

/-- A run after its first step. -/
theorem reaches_succ_of_step {n : Nat} {s t u : State} (h : step s = .next u) :
    Reaches (n + 1) s t ↔ Reaches n u t := by
  rw [reaches_succ, h]
  simp only [Host.Outcome.next.injEq, exists_eq_left']

/-- A run of `m + n` steps is a run of `m` and then one of `n`. -/
theorem reaches_add {m n : Nat} {s t : State} :
    Reaches (m + n) s t ↔ ∃ u, Reaches m s u ∧ Reaches n u t := by
  induction m generalizing s with
  | zero => simp only [Nat.zero_add, reaches_zero, exists_eq_left]
  | succ m ih =>
    obtain ⟨v, hstep⟩ := exists_step_eq_next s
    simp only [Nat.succ_add, Nat.succ_eq_add_one, reaches_succ_of_step hstep, ih]

/-- Every run of a launch meets the invariant. -/
theorem exists_reaches_inv (p : Program) (init : RegFile) (budget : Option Nat) (n : Nat) :
    ∃ t, Reaches n (launch p init budget) t ∧ t.Inv := by
  obtain ⟨t, ht⟩ := exists_reaches n (launch p init budget)
  exact ⟨t, ht, reaches_keeps (fun hstep hs => invariantKeptByStep _ _ hs hstep) ht
    (invariantHoldsAtLaunch p init budget)⟩

/-- Settles O41: every step answers a next state and keeps the invariant of the launch. -/
theorem launchedRunNeverStopsAbnormally : Obligations.LaunchedRunNeverStopsAbnormally :=
  ⟨fun _ _ p init budget _ n => exists_reaches_inv p init budget n,
    fun _ _ p init budget _ n => exists_reaches_inv p init budget n⟩

/-! ### Halting -/

/-- A halted state is never left. -/
theorem eq_of_reaches_of_halted {n : Nat} {s t : State} (h : Reaches n s t)
    (hs : s.halted = true) : t = s := by
  refine reaches_keeps (P := fun u => u = s) (fun {u v} hstep hu => ?_) h rfl
  rw [hu, step_of_halted hs] at hstep
  exact (Host.Outcome.next.inj hstep).symm

/-- Settles O42: a step in the halted state changes nothing. -/
theorem haltIsFinal : Obligations.HaltIsFinal := fun _ _ _ hs h => eq_of_reaches_of_halted h hs

/-- A state whose run goes on to a running one is running. -/
theorem running_of_reaches {n : Nat} {s t : State} (h : Reaches n s t) (ht : t.halted = false) :
    s.halted = false := by
  by_contra hs
  rw [eq_of_reaches_of_halted h (Bool.not_eq_false _ ▸ hs)] at ht
  exact hs ht

/-- A run that returns to its start does so again and again. -/
theorem reaches_mul {n : Nat} {s : State} (h : Reaches n s s) (k : Nat) : Reaches (n * k) s s := by
  induction k with
  | zero => exact reaches_zero.mpr rfl
  | succ k ih => exact reaches_add.mpr ⟨s, ih, h⟩

/-- Settles O43: after any number of steps the run still comes back to its running start. -/
theorem runThatReturnsNeverHalts : Obligations.RunThatReturnsNeverHalts := by
  intro n s hs hreturn m
  have hsplit : (n + 1) * m = m + n * m := by rw [Nat.succ_mul, Nat.add_comm]
  obtain ⟨t, hm, hback⟩ := reaches_add.mp (hsplit ▸ reaches_mul hreturn m)
  exact ⟨t, hm, running_of_reaches hback hs⟩

/-- A halted state of a run that began running is the halt step's, from the halt address the run
reached first. -/
theorem halt_of_reaches {n : Nat} {s t : State} (h : Reaches n s t) (hs : s.halted = false)
    (ht : t.halted = true) :
    ∃ m u, m < n ∧ Reaches m s u ∧ u.halted = false ∧ u.atHalt = true ∧ t = u.halt := by
  induction n generalizing s with
  | zero =>
    rw [reaches_zero.mp h, hs] at ht
    contradiction
  | succ n ih =>
    obtain ⟨u, hstep, hrest⟩ := reaches_succ.mp h
    obtain ⟨hhalted, -⟩ | ⟨-, hnone, rfl⟩ | ⟨i, -, -, rfl⟩ := step_cases hstep
    · rw [hs] at hhalted
      contradiction
    · exact ⟨0, s, n.succ_pos, reaches_zero.mpr rfl, hs, (fetch_eq_none_iff s).mp hnone,
        eq_of_reaches_of_halted hrest (State.halt_halted s)⟩
    · obtain ⟨m, v, hm, hv, hrest⟩ := ih hrest hs
      exact ⟨m + 1, v, Nat.succ_lt_succ hm, reaches_succ.mpr ⟨_, hstep, hv⟩, hrest⟩

/-! ### The count -/

/-- No step writes the budget. -/
theorem step_keeps_stepBudget {s t : State} (h : step s = .next t) :
    t.stepBudget = s.stepBudget := by
  obtain ⟨-, rfl⟩ | ⟨-, -, rfl⟩ | ⟨i, -, -, rfl⟩ := step_cases h
  · rfl
  · exact State.halt_stepBudget s
  · rw [State.advance_stepBudget, State.writeReg_stepBudget]

/-- A step to a running state is an executing one, and counts one under a budget. -/
theorem stepCnt_of_step {s t : State} (h : step s = .next t) (ht : t.halted = false) :
    t.stepCnt = s.stepCnt + if s.stepBudget.isSome then 1 else 0 := by
  obtain ⟨hhalted, rfl⟩ | ⟨-, -, rfl⟩ | ⟨i, -, -, rfl⟩ := step_cases h
  · rw [ht] at hhalted
    contradiction
  · contradiction
  · rw [State.advance_stepCnt, State.writeReg_stepBudget, State.writeReg_stepCnt]
    split <;> rfl

/-- A run to a running state counts all of its steps under a budget, and none without. -/
theorem stepCnt_of_reaches {n : Nat} {s t : State} (h : Reaches n s t) (ht : t.halted = false) :
    t.stepCnt = s.stepCnt + if s.stepBudget.isSome then n else 0 := by
  induction n generalizing s with
  | zero => simp [reaches_zero.mp h]
  | succ n ih =>
    obtain ⟨u, hstep, hrest⟩ := reaches_succ.mp h
    rw [ih hrest, step_keeps_stepBudget hstep, stepCnt_of_step hstep (running_of_reaches hrest ht)]
    split <;> omega

/-- The count at a running state of a launched run. -/
theorem stepCnt_of_launch {p : Program} {init : RegFile} {budget : Option Nat} {n : Nat} {t : State}
    (h : Reaches n (launch p init budget) t) (ht : t.halted = false) :
    t.stepCnt = if budget.isSome then n else 0 :=
  (stepCnt_of_reaches h ht).trans (Nat.zero_add _)

/-- Settles O48: at a running state the count is that of the steps, and at a halted state that of
the running state before the halt step. -/
theorem stepCountCountsExecutingSteps : Obligations.StepCountCountsExecutingSteps := by
  intro p init budget n t h
  cases ht : t.halted with
  | false =>
    have hcount := stepCnt_of_launch h ht
    cases budget <;> simp_all
  | true =>
    obtain ⟨m, u, hm, hu, hrun, hhalt, rfl⟩ := halt_of_reaches h rfl ht
    have hcount : u.halt.stepCnt = if budget.isSome then m else 0 :=
      (State.halt_stepCnt u).trans (stepCnt_of_launch hu hrun)
    refine ⟨fun hnone => ?_, fun _ hfalse => by contradiction, fun _ =>
      ⟨m, u, hm, hu, hrun, hhalt, rfl, fun hsome => ?_⟩, ?_⟩
    · rw [hcount, hnone, Option.isSome_none, if_neg Bool.false_ne_true]
    · rw [hcount, if_pos (Option.isSome_iff_ne_none.mpr hsome)]
    · rw [hcount]
      split <;> omega

end Sys2Proof.Machine
end

section
/-! PROOFS. The run loops and the host's observer: `44_executor.md` R158 and R159,
`60_exceptions.md` R205, R210, R213 and R216. -/

namespace Sys2Proof.Machine

/-! ### One turn of a loop -/

/-- The budget is spent at a running state, in range, whose count has reached it. -/
theorem budgetSpent_iff (s : State) :
    s.budgetSpent = true ↔
      s.halted = false ∧ s.atHalt = false ∧ ∃ b, s.stepBudget = some b ∧ b ≤ s.stepCnt := by
  unfold State.budgetSpent State.atHalt
  cases s.stepBudget with
  | none => simp
  | some b => simp [and_assoc, and_comm]

/-- A turn with the budget spent. -/
theorem runToHalt_of_spent {s : State} (h : s.budgetSpent = true) (fuel : Nat) :
    runToHalt (fuel + 1) s = .next (.budgetExceeded s.x) := by
  simp [runToHalt, h]

/-- A turn that makes a step. -/
theorem runToHalt_of_step {s t : State} (h : s.budgetSpent = false) (hstep : step s = .next t)
    (fuel : Nat) :
    runToHalt (fuel + 1) s = if t.halted then .next (.halted t.x) else runToHalt fuel t := by
  simp [runToHalt, h, hstep]

/-- Without a budget, every turn makes a step. -/
theorem budgetSpent_of_stepBudget_none {s : State} (h : s.stepBudget = none) :
    s.budgetSpent = false := by
  simp [State.budgetSpent, h]

/-! ### The loop without a budget -/

/-- Settles O45: by induction on the turns; the loop ends at the first halted state, which is the
only one. -/
theorem runToHaltAnswersFinalRegisters : Obligations.RunToHaltAnswersFinalRegisters := by
  intro fuel s r hbudget
  induction fuel generalizing s with
  | zero => simp [runToHalt]
  | succ fuel ih =>
    obtain ⟨u, hstep⟩ := exists_step_eq_next s
    rw [runToHalt_of_step (budgetSpent_of_stepBudget_none hbudget) hstep]
    simp only [reaches_succ_of_step hstep]
    cases hu : u.halted with
    | true =>
      simp only [if_true, Host.Outcome.next.injEq, RunEnd.halted.injEq]
      constructor
      · exact fun hr => ⟨0, u, fuel.succ_pos, reaches_zero.mpr rfl, hu, hr⟩
      · rintro ⟨n, t, -, hreach, -, hr⟩
        exact eq_of_reaches_of_halted hreach hu ▸ hr
    | false =>
      rw [if_neg Bool.false_ne_true, ih u ((step_keeps_stepBudget hstep).trans hbudget)]
      constructor
      · rintro ⟨n, t, hn, ht⟩
        exact ⟨n + 1, t, Nat.succ_lt_succ hn, ht⟩
      · rintro ⟨n, t, hn, hreach, hhalted, hr⟩
        cases n with
        | zero =>
          rw [reaches_zero.mp hreach, hu] at hhalted
          contradiction
        | succ n => exact ⟨n, t, Nat.lt_of_succ_lt_succ hn, hreach, hhalted, hr⟩

/-! ### The loop under a budget -/

/-- A running state with a budget of which `left` instructions are left. -/
structure Budgeted (left : Nat) (s : State) : Prop where
  running : s.halted = false
  budget : s.stepBudget = some (s.stepCnt + left)

/-- A launch has its whole budget left. -/
theorem budgeted_launch (p : Program) (init : RegFile) (b : Nat) :
    Budgeted b (launch p init (some b)) where
  running := rfl
  budget := congrArg some (Nat.zero_add b).symm

namespace Budgeted

variable {left : Nat} {s : State}

/-- The budget is spent when nothing is left of it and the address is in range. -/
theorem budgetSpent_eq (h : Budgeted left s) :
    s.budgetSpent = (!s.atHalt && decide (left = 0)) := by
  rw [Bool.eq_iff_iff, budgetSpent_iff]
  simp [h.running, h.budget]

/-- A turn at a halt address answers `Halted`, whatever is left of the budget. -/
theorem runToHalt_of_atHalt (h : Budgeted left s) (hhalt : s.atHalt = true) (fuel : Nat) :
    runToHalt (fuel + 1) s = .next (.halted s.x) := by
  have hspent : s.budgetSpent = false := by simp [h.budgetSpent_eq, hhalt]
  rw [runToHalt_of_step hspent (step_of_atHalt h.running hhalt), State.halt_halted, if_pos rfl,
    State.halt_x]

/-- A turn in range with nothing left answers `BudgetExceeded`. -/
theorem runToHalt_of_zero (h : Budgeted 0 s) (hin : s.atHalt = false) (fuel : Nat) :
    runToHalt (fuel + 1) s = .next (.budgetExceeded s.x) :=
  runToHalt_of_spent (by simp [h.budgetSpent_eq, hin]) fuel

/-- A turn in range with something left executes one instruction and goes on with one less. -/
theorem exists_step (h : Budgeted (left + 1) s) (hin : s.atHalt = false) :
    ∃ u, step s = .next u ∧ Budgeted left u ∧
      ∀ fuel, runToHalt (fuel + 1) s = runToHalt fuel u := by
  obtain ⟨u, hstep⟩ := exists_step_eq_next s
  have hu : u.halted = false := by
    have := (haltedIsSetOnlyByHaltStep s u hstep).1
    simpa [h.running, hin] using this
  have hcount : u.stepCnt = s.stepCnt + 1 := by
    rw [stepCnt_of_step hstep hu, h.budget]
    rfl
  have hspent : s.budgetSpent = false := by simp [h.budgetSpent_eq]
  refine ⟨u, hstep, ⟨hu, ?_⟩, fun fuel => ?_⟩
  · rw [step_keeps_stepBudget hstep, h.budget, hcount, Nat.add_right_comm, Nat.add_assoc]
  · rw [runToHalt_of_step hspent hstep, hu, if_neg Bool.false_ne_true]

/-- From a halt address no run of one or more steps is running. -/
theorem not_reaches_running (h : Budgeted left s) (hhalt : s.atHalt = true) {n : Nat} {t : State}
    (hreach : Reaches (n + 1) s t) : t.halted = true := by
  have hrest := (reaches_succ_of_step (step_of_atHalt h.running hhalt)).mp hreach
  rw [eq_of_reaches_of_halted hrest (State.halt_halted s), State.halt_halted]

/-- `BudgetExceeded` is answered when what is left is executed and leaves a running state in
range. -/
theorem runToHalt_eq_budgetExceeded_iff (h : Budgeted left s) (fuel : Nat) (r : RegFile) :
    runToHalt fuel s = .next (.budgetExceeded r) ↔
      ∃ t, left < fuel ∧ Reaches left s t ∧ t.halted = false ∧ t.atHalt = false ∧ t.x = r := by
  induction fuel generalizing left s with
  | zero => simp [runToHalt]
  | succ fuel ih =>
    cases hhalt : s.atHalt with
    | true =>
      rw [h.runToHalt_of_atHalt hhalt]
      refine iff_of_false (by simp) ?_
      rintro ⟨t, -, hreach, ht, hin, -⟩
      cases left with
      | zero => simp [reaches_zero.mp hreach, hhalt] at hin
      | succ left => simp [h.not_reaches_running hhalt hreach] at ht
    | false =>
      cases left with
      | zero =>
        rw [h.runToHalt_of_zero hhalt]
        simp [reaches_zero, h.running, hhalt]
      | succ left =>
        obtain ⟨u, hstep, hu, hturn⟩ := h.exists_step hhalt
        simp only [hturn, ih hu, reaches_succ_of_step hstep, Nat.succ_lt_succ_iff]

/-- `Halted` is answered when a halt address comes within what is left. -/
theorem runToHalt_eq_halted_iff (h : Budgeted left s) (fuel : Nat) (r : RegFile) :
    runToHalt fuel s = .next (.halted r) ↔
      ∃ n t, n < fuel ∧ n ≤ left ∧ Reaches n s t ∧ t.halted = false ∧ t.atHalt = true ∧
        t.x = r := by
  induction fuel generalizing left s with
  | zero => simp [runToHalt]
  | succ fuel ih =>
    cases hhalt : s.atHalt with
    | true =>
      simp only [h.runToHalt_of_atHalt hhalt, Host.Outcome.next.injEq, RunEnd.halted.injEq]
      constructor
      · exact fun hr =>
          ⟨0, s, fuel.succ_pos, left.zero_le, reaches_zero.mpr rfl, h.running, hhalt, hr⟩
      · rintro ⟨n, t, -, -, hreach, ht, -, hr⟩
        cases n with
        | zero => exact reaches_zero.mp hreach ▸ hr
        | succ n => simp [h.not_reaches_running hhalt hreach] at ht
    | false =>
      cases left with
      | zero =>
        rw [h.runToHalt_of_zero hhalt]
        refine iff_of_false (by simp) ?_
        rintro ⟨n, t, -, hn, hreach, -, hout, -⟩
        obtain rfl := Nat.le_zero.mp hn
        simp [reaches_zero.mp hreach, hhalt] at hout
      | succ left =>
        obtain ⟨u, hstep, hu, hturn⟩ := h.exists_step hhalt
        rw [hturn, ih hu]
        constructor
        · rintro ⟨n, t, hfuel, hleft, hreach, ht⟩
          exact ⟨n + 1, t, Nat.succ_lt_succ hfuel, Nat.succ_le_succ hleft,
            (reaches_succ_of_step hstep).mpr hreach, ht⟩
        · rintro ⟨n, t, hfuel, hleft, hreach, ht, hout, hr⟩
          cases n with
          | zero => simp [reaches_zero.mp hreach, hhalt] at hout
          | succ n =>
            exact ⟨n, t, Nat.lt_of_succ_lt_succ hfuel, Nat.le_of_succ_le_succ hleft,
              (reaches_succ_of_step hstep).mp hreach, ht, hout, hr⟩

/-- With more turns than instructions left, the loop ends. -/
theorem runToHalt_ends (h : Budgeted left s) {fuel : Nat} (hfuel : left < fuel) :
    ∃ r, runToHalt fuel s = .next (.halted r) ∨ runToHalt fuel s = .next (.budgetExceeded r) := by
  induction fuel generalizing left s with
  | zero => exact absurd hfuel left.not_lt_zero
  | succ fuel ih =>
    cases hhalt : s.atHalt with
    | true => exact ⟨s.x, .inl (h.runToHalt_of_atHalt hhalt fuel)⟩
    | false =>
      cases left with
      | zero => exact ⟨s.x, .inr (h.runToHalt_of_zero hhalt fuel)⟩
      | succ left =>
        obtain ⟨u, -, hu, hturn⟩ := h.exists_step hhalt
        rw [hturn]
        exact ih hu (Nat.lt_of_succ_lt_succ hfuel)

end Budgeted

/-- The count at a running state of a run launched with a budget. -/
theorem stepCnt_of_budgeted_launch {p : Program} {init : RegFile} {b n : Nat} {t : State}
    (h : Reaches n (launch p init (some b)) t) (ht : t.halted = false) : t.stepCnt = n :=
  stepCnt_of_launch h ht

/-- Settles O46: the launch has `b` instructions left, and the count at a running state is that of
the steps. -/
theorem budgetExceededAfterExactlyBudget : Obligations.BudgetExceededAfterExactlyBudget := by
  intro fuel p init b r
  rw [(budgeted_launch p init b).runToHalt_eq_budgetExceeded_iff]
  constructor
  · rintro ⟨t, hb, hreach, ht, hin, hr⟩
    exact ⟨t, hb, hreach, stepCnt_of_budgeted_launch hreach ht, ht, hin, hr⟩
  · rintro ⟨t, hb, hreach, -, ht, hin, hr⟩
    exact ⟨t, hb, hreach, ht, hin, hr⟩

/-- Settles O47: the same for a halt address, and the loop uses up what is left or halts before. -/
theorem budgetedRunHaltsWithinBudget : Obligations.BudgetedRunHaltsWithinBudget := by
  intro fuel p init b
  have h := budgeted_launch p init b
  refine ⟨fun r => ?_, h.runToHalt_ends⟩
  rw [h.runToHalt_eq_halted_iff]
  constructor
  · rintro ⟨n, t, hn, hb, hreach, ht, hout, hr⟩
    exact ⟨n, t, hn, hb, hreach, stepCnt_of_budgeted_launch hreach ht, ht, hout, hr⟩
  · rintro ⟨n, t, hn, hb, hreach, -, ht, hout, hr⟩
    exact ⟨n, t, hn, hb, hreach, ht, hout, hr⟩

/-! ### The observed loop -/

section Observer

variable {ω : Type} (observe : ω → RegFile → ω × Request)

/-- An observed turn with the budget spent. -/
theorem runWithObserver_of_spent {s : State} (h : s.budgetSpent = true) (fuel : Nat) (o : ω) :
    runWithObserver observe (fuel + 1) o s = .next (.budgetExceeded s.x, o) := by
  simp [runWithObserver, h]

/-- An observed turn that makes a step to a halted state. -/
theorem runWithObserver_of_halted {s t : State} (h : s.budgetSpent = false)
    (hstep : step s = .next t) (ht : t.halted = true) (fuel : Nat) (o : ω) :
    runWithObserver observe (fuel + 1) o s = .next (.halted t.x, o) := by
  simp [runWithObserver, h, hstep, ht]

/-- An observed turn that makes a step to a running state: what the observer asks is done. -/
theorem runWithObserver_of_running {s t : State} (h : s.budgetSpent = false)
    (hstep : step s = .next t) (ht : t.halted = false) (fuel : Nat) (o : ω) :
    runWithObserver observe (fuel + 1) o s =
      if (observe o t.x).2 = .stop then .next (.stopped t.x, (observe o t.x).1)
      else runWithObserver observe fuel (observe o t.x).1 t := by
  cases hobs : observe o t.x with
  | mk o' request => cases request <;> simp [runWithObserver, h, hstep, ht, hobs]

end Observer

/-- Settles O49: turn by turn the loops make the same test and the same step. -/
theorem passiveObserverLoopIsRunToHalt : Obligations.PassiveObserverLoopIsRunToHalt := by
  intro ω observe hpassive fuel o s e
  induction fuel generalizing o s with
  | zero => simp [runWithObserver, runToHalt]
  | succ fuel ih =>
    cases hspent : s.budgetSpent with
    | true =>
      rw [runWithObserver_of_spent observe hspent, runToHalt_of_spent hspent]
      simp
    | false =>
      obtain ⟨t, hstep⟩ := exists_step_eq_next s
      rw [runToHalt_of_step hspent hstep]
      cases ht : t.halted with
      | true =>
        rw [runWithObserver_of_halted observe hspent hstep ht]
        simp
      | false =>
        rw [runWithObserver_of_running observe hspent hstep ht, hpassive, if_neg (by decide),
          if_neg Bool.false_ne_true]
        exact ih _ t

/-- Settles O50: the stop is asked for after the last step of the run. -/
theorem observerStopIsAStateOfTheRun : Obligations.ObserverStopIsAStateOfTheRun := by
  intro ω observe fuel o o' s r h
  induction fuel generalizing o s with
  | zero => simp [runWithObserver] at h
  | succ fuel ih =>
    cases hspent : s.budgetSpent with
    | true => simp [runWithObserver_of_spent observe hspent] at h
    | false =>
      obtain ⟨u, hstep⟩ := exists_step_eq_next s
      cases hu : u.halted with
      | true => simp [runWithObserver_of_halted observe hspent hstep hu] at h
      | false =>
        rw [runWithObserver_of_running observe hspent hstep hu] at h
        split at h
        · next hstop =>
          simp only [Host.Outcome.next.injEq, Prod.mk.injEq, RunEnd.stopped.injEq] at h
          obtain ⟨rfl, ho⟩ := h
          exact ⟨0, u, o, fuel.succ_pos, (reaches_succ_of_step hstep).mpr (reaches_zero.mpr rfl),
            hu, rfl, Prod.ext ho hstop⟩
        · obtain ⟨n, t, o₁, hn, hreach, ht⟩ := ih _ _ h
          exact ⟨n + 1, t, o₁, Nat.succ_lt_succ hn, (reaches_succ_of_step hstep).mpr hreach, ht⟩

/-! ### The cycle detector -/

/-- A running detector takes a value not seen before as its last novel value. -/
theorem observe_of_novel {d : Detector} {l u : Int} (hlast : d.lastNovel = some l)
    (hrun : d.terminal = false) (hu : u ∉ d.seen) :
    (d.observe u).1 = { d with seen := u :: d.seen, lastNovel := some u } := by
  simp [Detector.observe, hlast, hrun, hu]

/-- A running detector ends at a value seen before, and reports its last novel value. -/
theorem observe_of_seen {d : Detector} {l u : Int} (hlast : d.lastNovel = some l)
    (hrun : d.terminal = false) (hu : u ∈ d.seen) :
    d.observe u = ({ d with terminal := true }, .terminal l) := by
  simp [Detector.observe, hlast, hrun, hu]

/-- The detector after a sequence of values. -/
def Detector.fed (vs : List Int) : Detector :=
  vs.foldl (fun d u => (d.observe u).1) Detector.fresh

theorem Detector.fed_concat (vs : List Int) (u : Int) :
    Detector.fed (vs ++ [u]) = ((Detector.fed vs).observe u).1 :=
  List.foldl_append

/-- After distinct values the detector has seen them all and keeps the first and the last. -/
theorem Detector.fed_of_nodup {v : Int} {vs : List Int} (h : (v :: vs).Nodup) :
    Detector.fed (v :: vs) =
      ⟨(v :: vs).reverse, some v, some ((v :: vs).getLast (List.cons_ne_nil v vs)), false⟩ := by
  induction vs using List.reverseRecOn with
  | nil => rfl
  | append_singleton vs u ih =>
    obtain ⟨hinit, -, hdisjoint⟩ := List.nodup_append (l₁ := v :: vs).mp h
    have hu : u ∉ (v :: vs).reverse := fun hmem =>
      hdisjoint u (List.mem_reverse.mp hmem) u (List.mem_singleton_self u) rfl
    have hfed := Detector.fed_concat (v :: vs) u
    rw [ih hinit, observe_of_novel rfl rfl hu] at hfed
    simpa using hfed

/-- Settles O51: the state after the distinct values, and then one value seen before. -/
theorem detectorReportsLastNovelValue : Obligations.DetectorReportsLastNovelValue := by
  intro v vs w hnodup hw d
  have hd : d = _ := Detector.fed_of_nodup hnodup
  have hobserve := observe_of_seen (d := d) (by rw [hd]) (by rw [hd])
    (by rw [hd]; exact List.mem_reverse.mpr hw)
  rw [hobserve, hd]
  exact ⟨rfl, rfl, rfl, rfl⟩

end Sys2Proof.Machine
end
